-- ==== Sys2Proof/Word.lean ====
section
/-! DEFINITION. The words of the block: bytes, 16-bit registers, the 24-bit command and response words, the 32-bit event
word (00_scope R9, 30_encoding R107, R110, R112). All values are unsigned. -/

namespace Sys2Proof

/-- A byte: 8 bits, the width of every character, payload byte and storage cell (R9, R60). -/
abbrev Byte := BitVec 8

/-- A 16-bit register or value (R20, R46). -/
abbrev Half := BitVec 16

/-- A 24-bit word on the command port: a command in, a response out (R107, R110). -/
abbrev CmdWord := BitVec 24

/-- A 32-bit word on the event port (R112). -/
abbrev EventWord := BitVec 32

/-- `min(x + 1, 0xFFFF)`: the increment of a saturating 16-bit counter (R13(2), R29). -/
def satSucc (x : Half) : Half := if x = 0xFFFF#16 then x else x + 1#16

/-- A number held in a 16-bit register, as `RDREG` shows it (R46). -/
def half (n : Nat) : Half := BitVec.ofNat 16 n

end Sys2Proof
end

