-- ==== Sys2Proof/Config.lean ====
section
/-! DEFINITION. What an instance of the block fixes (00_scope R7) and the free values the spec leaves open (93 U3, U11,
U12): parameters as plain data, free values as constants without a body. -/

namespace Sys2Proof

/-- Which checksum function `CrcUpdate` is (R7, R322, U12): the spec's default, or one the platform supplies, of which
nothing is known. -/
inductive CrcFunction where
  /-- The reflected 0xA001 update of 46_integrity R322. -/
  | reflectedA001
  /-- Any other total function, number `n` of an uninterpreted family (log 4). -/
  | platform (n : Nat)
deriving DecidableEq, Repr

/-- The parameters of 00_scope R7 that a rule reads; constant for an instance (R50). -/
structure Config where
  /-- `ROLE_MASTER`. -/
  roleMaster : Bool
  /-- `CRC_ENABLE`. -/
  crcEnable : Bool
  /-- `CrcUpdate`. -/
  crcFunction : CrcFunction
  /-- `MAX_LEN`, in payload bytes with the address byte (R104). -/
  maxLen : Nat
  /-- `BLOCK_SIZE`. -/
  blockSize : Nat
  /-- `MIN_FLOOR`. -/
  minFloor : Nat
  /-- `TIMEOUT_RESET`. -/
  timeoutReset : Half
  /-- `ALLOC_CAN_FAIL`. -/
  allocCanFail : Bool
  /-- `DIAG_ENABLE`. -/
  diagEnable : Bool
deriving DecidableEq, Repr

namespace Config

/-- The defaults of R7. -/
def default : Config where
  roleMaster := true
  crcEnable := false
  crcFunction := .reflectedA001
  maxLen := 254
  blockSize := 16
  minFloor := 16
  timeoutReset := 1000#16
  allocCanFail := true
  diagEnable := false

/-- FREE VALUE (log 2): the allocator's answer number `n` to a growth request, once the answers that the environment put
into the state are used up (R131, U3: "any value per request"). -/
opaque freeGrant : Nat → Bool

/-- FREE VALUE (log 4): the platform's checksum functions, one for each `n` (R7, U12). -/
opaque platformCrc : Nat → Half → Byte → Half

/-- FREE VALUE (log 3): `TICK_PERIOD`, the length of a tick; OPEN, and no rule depends on it (R7, R410, U11). -/
opaque tickPeriod : Nat

/-- `CRC_SEED` (R7, R8): all ones. -/
def crcSeed : Half := 0xFFFF#16

/-- `FILLER` (R7, R8). -/
def filler : Byte := 0xFF#8

/-- `SCRATCH_MAX` (R7, R26): the length of a header. -/
def scratchMax : Nat := 6

end Config
end Sys2Proof
end

