-- ==== Sys2Proof/Syntax.lean ====
section
/-! DEFINITION. The operations of the block as syntax: one constructor of `Instr` per row of spec/opcode_table.json
(30_encoding R118), and what arrives at a port before it is decoded. -/

namespace Sys2Proof

/-- The three keywords of a wire line (R92). -/
inductive Keyword where
  | i2ct | i2cr | i2ca
deriving DecidableEq, Repr

/-- One operation of the block. The four wire lines carry their decoded fields (`sum` is the integrity suffix, R99); the
received bytes carry the byte where the class has more than one; the commands carry both operand bytes, also where the
command ignores them (R107, log 17). -/
inductive Instr where
  /-- `I2CT`: a transmit line, target address and data bytes (R96). -/
  | i2ct (addr : Byte) (data : List Byte) (sum : Option Half)
  /-- `I2CR`: a request line, address and requested length (R97). -/
  | i2cr (addr : Byte) (count : Byte) (sum : Option Half)
  /-- `I2CA`: a response line with data bytes (R98). -/
  | i2ca (addr : Byte) (data : List Byte) (sum : Option Half)
  /-- `NACK`: the response line without data (R98, R237). -/
  | nack (addr : Byte) (sum : Option Half)
  /-- `Feed.LF` (R200). -/
  | feedLF
  /-- `Feed.CR` (R162). -/
  | feedCR
  /-- `Feed.PLUS` (R166). -/
  | feedPLUS
  /-- `Feed.HASH` (R178). -/
  | feedHASH
  /-- `Feed.SEP` (R177). -/
  | feedSEP (b : Byte)
  /-- `Feed.HEXDIGIT` (R169). -/
  | feedHEXDIGIT (b : Byte)
  /-- `Feed.OTHER` (R180). -/
  | feedOTHER (b : Byte)
  /-- `NOP` (R254). -/
  | cmdNop (a b : Byte)
  /-- `BEGIN a` (R251). -/
  | cmdBegin (a b : Byte)
  /-- `BEGINM` (R252). -/
  | cmdBeginm (a b : Byte)
  /-- `END` (R253). -/
  | cmdEnd (a b : Byte)
  /-- `BEGINTX a` (R255). -/
  | cmdBegintx (a b : Byte)
  /-- `WRITE a` (R256). -/
  | cmdWrite (a b : Byte)
  /-- `ENDTX` (R257). -/
  | cmdEndtx (a b : Byte)
  /-- `REQFROM a, b` (R258). -/
  | cmdReqfrom (a b : Byte)
  /-- `READ` (R260). -/
  | cmdRead (a b : Byte)
  /-- `PEEK` (R261). -/
  | cmdPeek (a b : Byte)
  /-- `AVAIL` (R262). -/
  | cmdAvail (a b : Byte)
  /-- `CBDONE` (R259). -/
  | cmdCbdone (a b : Byte)
  /-- `SETTO {a, b}` (R263). -/
  | cmdSetto (a b : Byte)
  /-- `RDREG a` (R264). -/
  | cmdRdreg (a b : Byte)
  /-- `(reserved)`: any opcode outside R108's table (R109, R265). -/
  | cmdReserved (op a b : Byte)
  /-- `Tick` (R302). -/
  | tick
  /-- `ReqComplete` (R304). -/
  | reqComplete
deriving DecidableEq, Repr

/-- What arrives at a port of the block (10_state R45), undecoded: a byte or a whole line of text on RX, a word on the
command port, a pulse on the tick input, the engine's own turn. -/
inductive Stimulus where
  | byte (b : Byte)
  | line (text : List Byte)
  | command (w : CmdWord)
  | tick
  | engine
deriving DecidableEq, Repr

end Sys2Proof
end

