-- ==== Sys2Proof/Machine/Operands.lean ====
section
/-! DEFINITION. Operand forms: characters and their classes, hex pairs, keywords and headers, the fields of a command
word, block rounding, the frame checksum. Pure functions of their arguments (30_encoding, 40_buffer R130, 46_integrity). -/

namespace Sys2Proof.Machine

/-! ## Characters (R8, R90, R101) -/

/-- `\n`, the line end. -/
def charLF : Byte := 0x0A#8
/-- `\r`, ignored. -/
def charCR : Byte := 0x0D#8
/-- `+`, the frame start. -/
def charPlus : Byte := 0x2B#8
/-- `#`, the integrity marker. -/
def charHash : Byte := 0x23#8
/-- `=`, the keyword terminator. -/
def charEq : Byte := 0x3D#8

/-- A separator: comma, space or tab (R94). -/
def isSep (c : Byte) : Bool := c == 0x2C#8 || c == 0x20#8 || c == 0x09#8

/-- `c` lies in the inclusive range `lo..hi`. -/
def inRange (c lo hi : Byte) : Bool := decide (lo.toNat ≤ c.toNat) && decide (c.toNat ≤ hi.toNat)

/-- `HexVal(c)` (R117), `none` where `c` is not a hex digit. -/
def hexVal? (c : Byte) : Option (BitVec 4) :=
  if inRange c 0x30#8 0x39#8 then some ((c - 0x30#8).setWidth 4)
  else if inRange c 0x41#8 0x46#8 then some ((c - 0x41#8 + 10#8).setWidth 4)
  else if inRange c 0x61#8 0x66#8 then some ((c - 0x61#8 + 10#8).setWidth 4)
  else none

/-- `IsHex(c)` (R117). -/
def isHex (c : Byte) : Bool := (hexVal? c).isSome

/-- The seven classes of a received byte (R101). -/
inductive ByteClass where
  | lf | cr | plus | hash | sep | hexDigit | other
deriving DecidableEq, Repr

/-- The class of a received byte (R101); the last row takes every byte no other row takes. -/
def classOf (b : Byte) : ByteClass :=
  if b = charLF then .lf
  else if b = charCR then .cr
  else if b = charPlus then .plus
  else if b = charHash then .hash
  else if isSep b then .sep
  else if isHex b then .hexDigit
  else .other

/-- A letter `a`..`z` replaced by its upper case, any other character left (R166). -/
def upper (c : Byte) : Byte := if inRange c 0x61#8 0x7A#8 then c - 0x20#8 else c

/-! ## Hex pairs and the integrity value (R64, R65, R117, R231) -/

/-- `HexDigit(n)` (R231): `0`..`9`, then lower-case `a`..`f`. -/
def hexDigit (n : BitVec 4) : Byte :=
  if n.toNat ≤ 9 then n.setWidth 8 + 0x30#8 else n.setWidth 8 - 10#8 + 0x61#8

/-- `16 * HexVal(hi) + HexVal(lo)` (R13(1), R117). -/
def pairValue (hi lo : BitVec 4) : Byte := 16#8 * hi.setWidth 8 + lo.setWidth 8

/-- `Hex2(v)`: the digit of bits [7:4], then the digit of bits [3:0] (R117, R64). -/
def hex2 (v : Byte) : List Byte := [hexDigit (v.extractLsb' 4 4), hexDigit (v.extractLsb' 0 4)]

/-- `Hex4(w)`: `Hex2` of the high byte, then of the low byte (R117, R65). -/
def hex4 (w : Half) : List Byte := hex2 (w.extractLsb' 8 8) ++ hex2 (w.extractLsb' 0 8)

/-- One more digit of an integrity value: `(v * 16 + d) mod 65536` (R13(3), R179). -/
def shiftDigit (v : Half) (d : BitVec 4) : Half := v * 16#16 + d.setWidth 16

/-! ## Keywords and headers (R91, R92, R231) -/

/-- The six characters `+`, keyword, `=` that open a line, in upper case (R91, R92). -/
def header : Keyword → List Byte
  | .i2ct => [0x2B#8, 0x49#8, 0x32#8, 0x43#8, 0x54#8, 0x3D#8]
  | .i2cr => [0x2B#8, 0x49#8, 0x32#8, 0x43#8, 0x52#8, 0x3D#8]
  | .i2ca => [0x2B#8, 0x49#8, 0x32#8, 0x43#8, 0x41#8, 0x3D#8]

/-- Which header six received characters are, letters in either case (R91, R166). -/
def matchHeader (cs : List Byte) : Option Keyword :=
  if cs.map upper = header .i2ct then some .i2ct
  else if cs.map upper = header .i2cr then some .i2cr
  else if cs.map upper = header .i2ca then some .i2ca
  else none

/-! ## The command word (R107) -/

/-- Bits [23:16]: the opcode. -/
def cmdOp (w : CmdWord) : Byte := w.extractLsb' 16 8
/-- Bits [15:8]: operand A. -/
def cmdA (w : CmdWord) : Byte := w.extractLsb' 8 8
/-- Bits [7:0]: operand B. -/
def cmdB (w : CmdWord) : Byte := w.extractLsb' 0 8

/-- The command word `{op, A, B}` (R107). -/
def commandWord (op a b : Byte) : CmdWord := op ++ a ++ b

/-- The 16-bit operand `{A, B}` of SETTO, A the more significant byte (R65, R263). -/
def operandAB (a b : Byte) : Half := a ++ b

/-! ## Block rounding (R130) -/

/-- `RoundUp(x)`: the least multiple of `BLOCK_SIZE` that is at least `x` (R130). -/
def roundUp (cfg : Config) (x : Nat) : Nat := (x + cfg.blockSize - 1) / cfg.blockSize * cfg.blockSize

/-! ## The frame checksum (46_integrity) -/

/-- One of the eight rounds of R322. -/
def crcRound (acc : Half) : Half := if acc.getLsbD 0 then (acc >>> 1) ^^^ 0xA001#16 else acc >>> 1

/-- The default `CrcUpdate(acc, byte)` (R322): the byte folded in, then eight rounds. -/
def crcUpdateDefault (acc : Half) (b : Byte) : Half := Nat.repeat crcRound 8 (acc ^^^ b.setWidth 16)

/-- `CrcUpdate` of this instance (R7, U12). -/
def crcUpdate (cfg : Config) (acc : Half) (b : Byte) : Half :=
  match cfg.crcFunction with
  | .reflectedA001 => crcUpdateDefault acc b
  | .platform n => Config.platformCrc n acc b

/-- The checksum of a run of payload bytes, address first: seeded to all ones, one update per byte, no final change
(R321, R233). -/
def frameSum (cfg : Config) (payload : List Byte) : Half := payload.foldl (crcUpdate cfg) Config.crcSeed

end Sys2Proof.Machine
end

