-- ==== Sys2Proof/WellFormed.lean ====
section
/-! DEFINITION. Which terms are instructions the encodings admit (spec/opcode_table.json, 30_encoding R96 to R101, R108,
R109), and which configurations are legal (00_scope R7). -/

namespace Sys2Proof

/-- The most data bytes a line can have under any legal configuration: `MAX_LEN - 1` for `MAX_LEN = 65535` (R7, R96). -/
def maxDataBytes : Nat := 65534

/-- The opcodes of the fourteen host commands (R108). -/
def commandOpcodes : List Byte :=
  [0x00#8, 0x01#8, 0x02#8, 0x03#8, 0x10#8, 0x11#8, 0x12#8, 0x13#8, 0x20#8, 0x21#8, 0x22#8, 0x30#8, 0x40#8, 0x41#8]

/-- An instruction that the encodings admit: a byte stands under its own class (R101), a reserved opcode is none of R108's
(R109), a request asks for 1 to 255 bytes (R97), a line's data fits (R96, R98), and a response line without data is
written as the NACK (R98, R237, log 7). -/
def Instr.wellFormed : Instr → Bool
  | .i2ct _ data _ => decide (data.length ≤ maxDataBytes)
  | .i2cr _ count _ => count != 0#8
  | .i2ca _ data _ => !data.isEmpty && decide (data.length ≤ maxDataBytes)
  | .nack _ _ => true
  | .feedLF => true
  | .feedCR => true
  | .feedPLUS => true
  | .feedHASH => true
  | .feedSEP b => Machine.classOf b == .sep
  | .feedHEXDIGIT b => Machine.classOf b == .hexDigit
  | .feedOTHER b => Machine.classOf b == .other
  | .cmdNop _ _ => true
  | .cmdBegin _ _ => true
  | .cmdBeginm _ _ => true
  | .cmdEnd _ _ => true
  | .cmdBegintx _ _ => true
  | .cmdWrite _ _ => true
  | .cmdEndtx _ _ => true
  | .cmdReqfrom _ _ => true
  | .cmdRead _ _ => true
  | .cmdPeek _ _ => true
  | .cmdAvail _ _ => true
  | .cmdCbdone _ _ => true
  | .cmdSetto _ _ => true
  | .cmdRdreg _ _ => true
  | .cmdReserved op _ _ => !commandOpcodes.contains op
  | .tick => true
  | .reqComplete => true

/-- The legal ranges of the parameters (R7). -/
abbrev Config.Legal (cfg : Config) : Prop :=
  2 ≤ cfg.maxLen ∧ cfg.maxLen ≤ 65535 ∧ Machine.roundUp cfg cfg.maxLen ≤ 65535 ∧
    1 ≤ cfg.blockSize ∧ cfg.blockSize ≤ 65535 ∧ cfg.minFloor ≤ 65535

end Sys2Proof
end

