-- ==== Sys2Proof/Decode.lean ====
section
/-! DEFINITION. From what arrives at a port to the operation it is, and back (30_encoding R90 to R118). Every byte and every
command word decodes (R101, R109); a text that is no wire line is refused by name. -/

namespace Sys2Proof

/-- Why a text is no wire line (R90 to R99, R105). -/
inductive DecodeError where
  /-- the text has no `\n`, or anything, a `\r` too, stands behind it: that belongs to the next line (R90, R100) -/
  | noLineEnd
  /-- the first six characters are none of the three headers (R91, R92) -/
  | badHeader
  /-- a character that is no hex digit, separator or `#` (R93) -/
  | badChar
  /-- a hex digit without its partner (R67, R94) -/
  | badHex
  /-- no address byte, or a request without its length (R96 to R98) -/
  | tooShort
  /-- more payload than the keyword or any legal `MAX_LEN` allows (R97, R104) -/
  | tooLong
  /-- a request for 0 bytes (R97) -/
  | zeroCount
  /-- after `#` anything but four hex digits (R99) -/
  | badSum
deriving DecidableEq, Repr

namespace Decode
open Machine

/-! ## Received bytes and command words -/

/-- The operation of one received byte (R101). -/
def ofByte (b : Byte) : Instr :=
  match classOf b with
  | .lf => .feedLF
  | .cr => .feedCR
  | .plus => .feedPLUS
  | .hash => .feedHASH
  | .sep => .feedSEP b
  | .hexDigit => .feedHEXDIGIT b
  | .other => .feedOTHER b

/-- The operation of one command word (R107, R108, R109). -/
def ofCommand (w : CmdWord) : Instr :=
  let op := cmdOp w
  let a := cmdA w
  let b := cmdB w
  if op = 0x00#8 then .cmdNop a b
  else if op = 0x01#8 then .cmdBegin a b
  else if op = 0x02#8 then .cmdBeginm a b
  else if op = 0x03#8 then .cmdEnd a b
  else if op = 0x10#8 then .cmdBegintx a b
  else if op = 0x11#8 then .cmdWrite a b
  else if op = 0x12#8 then .cmdEndtx a b
  else if op = 0x13#8 then .cmdReqfrom a b
  else if op = 0x20#8 then .cmdRead a b
  else if op = 0x21#8 then .cmdPeek a b
  else if op = 0x22#8 then .cmdAvail a b
  else if op = 0x30#8 then .cmdCbdone a b
  else if op = 0x40#8 then .cmdSetto a b
  else if op = 0x41#8 then .cmdRdreg a b
  else .cmdReserved op a b

/-! ## Wire lines -/

/-- The integrity suffix after `#`: exactly four hex digits, most significant first (R65, R99). -/
def suffix? (cs : List Byte) : Except DecodeError Half :=
  match cs with
  | [c3, c2, c1, c0] =>
    match hexVal? c3, hexVal? c2, hexVal? c1, hexVal? c0 with
    | some d3, some d2, some d1, some d0 =>
      .ok (shiftDigit (shiftDigit (shiftDigit (shiftDigit 0#16 d3) d2) d1) d0)
    | _, _, _, _ => .error .badSum
  | _ => .error .badSum

/-- The characters between the header and the line end: hex pairs with separators between them, then the suffix
(R93, R94, R99). -/
def body? : List Byte → Except DecodeError (List Byte × Option Half)
  | [] => .ok ([], none)
  | c :: rest =>
    if isSep c then body? rest
    else if c = charHash then
      match suffix? rest with
      | .ok v => .ok ([], some v)
      | .error e => .error e
    else
      match hexVal? c, rest with
      | none, _ => .error .badChar
      | some _, [] => .error .badHex
      | some hi, d :: rest' =>
        match hexVal? d with
        | none => .error .badHex
        | some lo =>
          match body? rest' with
          | .ok (vs, sum) => .ok (pairValue hi lo :: vs, sum)
          | .error e => .error e

/-- The line of a keyword with these payload bytes and this suffix (R96, R97, R98). -/
def ofFields (k : Keyword) (payload : List Byte) (sum : Option Half) : Except DecodeError Instr :=
  match k, payload with
  | _, [] => .error .tooShort
  | .i2ct, addr :: data => if data.length ≤ maxDataBytes then .ok (.i2ct addr data sum) else .error .tooLong
  | .i2cr, [_] => .error .tooShort
  | .i2cr, [addr, count] => if count = 0#8 then .error .zeroCount else .ok (.i2cr addr count sum)
  | .i2cr, _ => .error .tooLong
  | .i2ca, [addr] => .ok (.nack addr sum)
  | .i2ca, addr :: data => if data.length ≤ maxDataBytes then .ok (.i2ca addr data sum) else .error .tooLong

/-- The operation of one whole line of text: it ends at its one `\n`, its last character; every `\r` before that is dropped;
the header stands in either case (R90, R91, R100, R102). -/
def ofLine (text : List Byte) : Except DecodeError Instr :=
  if text.getLast? = some charLF ∧ charLF ∉ text.dropLast then
    let cs := text.dropLast.filter (fun c => c != charCR)
    match matchHeader (cs.take 6) with
    | none => .error .badHeader
    | some k =>
      match body? (cs.drop 6) with
      | .ok (payload, sum) => ofFields k payload sum
      | .error e => .error e
  else .error .noLineEnd

end Decode

/-- The operation of what arrives at a port. -/
def decode : Stimulus → Except DecodeError Instr
  | .byte b => .ok (Decode.ofByte b)
  | .line text => Decode.ofLine text
  | .command w => .ok (Decode.ofCommand w)
  | .tick => .ok .tick
  | .engine => .ok .reqComplete

/-! ## The encoder -/

namespace Encode
open Machine

/-- The suffix as sent: `#` and four lower-case digits (R99, R231). -/
def suffix : Option Half → List Byte
  | none => []
  | some v => charHash :: hex4 v

/-- A line as the block sends it: header in upper case, two lower-case digits a byte, the suffix, `\n` (R90, R91, R102,
R103). -/
def line (k : Keyword) (payload : List Byte) (sum : Option Half) : List Byte :=
  header k ++ payload.flatMap hex2 ++ suffix sum ++ [charLF]

end Encode

open Encode Machine in
/-- What stands on a port for an instruction (R90 to R108). -/
def encode : Instr → Stimulus
  | .i2ct addr data sum => .line (line .i2ct (addr :: data) sum)
  | .i2cr addr count sum => .line (line .i2cr [addr, count] sum)
  | .i2ca addr data sum => .line (line .i2ca (addr :: data) sum)
  | .nack addr sum => .line (line .i2ca [addr] sum)
  | .feedLF => .byte charLF
  | .feedCR => .byte charCR
  | .feedPLUS => .byte charPlus
  | .feedHASH => .byte charHash
  | .feedSEP b => .byte b
  | .feedHEXDIGIT b => .byte b
  | .feedOTHER b => .byte b
  | .cmdNop a b => .command (commandWord 0x00#8 a b)
  | .cmdBegin a b => .command (commandWord 0x01#8 a b)
  | .cmdBeginm a b => .command (commandWord 0x02#8 a b)
  | .cmdEnd a b => .command (commandWord 0x03#8 a b)
  | .cmdBegintx a b => .command (commandWord 0x10#8 a b)
  | .cmdWrite a b => .command (commandWord 0x11#8 a b)
  | .cmdEndtx a b => .command (commandWord 0x12#8 a b)
  | .cmdReqfrom a b => .command (commandWord 0x13#8 a b)
  | .cmdRead a b => .command (commandWord 0x20#8 a b)
  | .cmdPeek a b => .command (commandWord 0x21#8 a b)
  | .cmdAvail a b => .command (commandWord 0x22#8 a b)
  | .cmdCbdone a b => .command (commandWord 0x30#8 a b)
  | .cmdSetto a b => .command (commandWord 0x40#8 a b)
  | .cmdRdreg a b => .command (commandWord 0x41#8 a b)
  | .cmdReserved op a b => .command (commandWord op a b)
  | .tick => .tick
  | .reqComplete => .engine

/-! ## The host's numbering of bits -/

/-- `n` characters whose first is bits 7..0 of `w`, the second bits 15..8, and so on. -/
def textOfBits : Nat → Nat → List Byte
  | 0, _ => []
  | n + 1, w => BitVec.ofNat 8 w :: textOfBits n (w / 256)

/-- The stimulus whose `nbits` bits are `w`: up to 8 bits a received byte, up to 24 a command word (bit 0 is bit [0] of the
word of R107), more than that the text of a wire line, first character in the lowest bits. -/
def stimulusOfBits (nbits w : Nat) : Stimulus :=
  if nbits ≤ 8 then .byte (BitVec.ofNat 8 w)
  else if nbits ≤ 24 then .command (BitVec.ofNat 24 w)
  else .line (textOfBits (nbits / 8) w)

/-- The instruction that `decode` reads from the bits `w`; none where it refuses them. -/
def decodeTableWord (nbits w : Nat) : Option Instr := (decode (stimulusOfBits nbits w)).toOption

end Sys2Proof
end

