-- ==== Sys2Proof/Machine/State.lean ====
section
/-! DEFINITION. The state of one instance of the block (10_state R20 to R52), as plain data: every register, the two
buffers, the sequences behind the ports, and the model's own fields (the parameters, what the environment holds ready,
whose turn it is). -/

namespace Sys2Proof.Machine

/-! ## Register values (R21 to R23, R35, R36); codes the spec never holds have no constructor (93 U8, log 12) -/

/-- `ownAddress` (R21): a bus address 0x00..0x7F or one of the two sentinels. -/
inductive OwnAddress where
  | uninitialized
  | masterOnly
  | bus (a : BitVec 7)
deriving DecidableEq, Repr

/-- `commandKind` (R22). -/
inductive CommandKind where
  | none | discard | masterTransmit | masterRequest | slaveResponse | sendDiscarded
deriving DecidableEq, Repr

/-- `outboundState` (R23). -/
inductive OutboundState where
  | idle | locked | fillingWait | filling | filled
deriving DecidableEq, Repr

/-- `svc` (R35): which callback is in progress. -/
inductive Svc where
  | none | receive | request
deriving DecidableEq, Repr

/-- What `RESULTSTATUS` and a `ReqDone` event can hold (R36, R112). -/
inductive WaitStatus where
  | ok | timeout | aborted
deriving DecidableEq, Repr

/-- The status codes of R111. -/
inductive Status where
  | ok | invalidAddress | ownAddress | endWithoutBegin | busy | notBegun | alreadyBegun | invalidLength | notAvailable
  | notWritable | full | allocFail | noCallback | unsupported | timeout | aborted | illegalCommand | badRegister
deriving DecidableEq, Repr

/-- The Discard reasons of R113. -/
inductive Reason where
  | badStart | badKeyword | badChar | badHex | wrongAddress | busy | overflow | allocFail | tooLong | tooShort | crcSyntax
  | crcMismatch | crcMissing | unexpectedResponse | zeroCount | truncatedKeyword | timeoutAbort
deriving DecidableEq, Repr

/-! ## Buffers -/

/-- Storage: bytes by index, in rising order of the index. An index that is not listed holds no value (R62, U2, log 11). -/
abbrev Memory := List Host.Cell

/-- The canonical form of storage: strictly rising indices. (No entry can equal what an unlisted index reads as, since
that is no value.) -/
abbrev Memory.wf (m : Memory) : Prop := m.Pairwise fun x y => x.1 < y.1

/-- A buffer record (R37); `minFloor` is a parameter. The counters are natural numbers that stay below 65536 (R13(8),
log 13). -/
structure Buffer where
  storage : Memory
  length : Nat
  position : Nat
  capacity : Nat
deriving DecidableEq, Repr

/-- "created empty" (R37, R39). -/
def Buffer.empty : Buffer := { storage := [], length := 0, position := 0, capacity := 0 }

/-- Which of the two buffers (R37, R114). -/
inductive BufId where
  | inbound | outbound
deriving DecidableEq, Repr

/-- `scratch[0..5]` (R26). -/
structure Scratch where
  c0 : Byte
  c1 : Byte
  c2 : Byte
  c3 : Byte
  c4 : Byte
  c5 : Byte
deriving DecidableEq, Repr

/-! ## What stands in the port sequences (R45) -/

/-- An item of the TX output sequence (R45(2)). -/
inductive TxItem where
  | tx (b : Byte)
  | flush
deriving DecidableEq, Repr

/-- A host event (R112). -/
inductive Event where
  | onReceive (count : Half)
  | onRequest
  | reqDone (status : WaitStatus) (value : Half)
deriving DecidableEq, Repr

/-- A response word's fields (R110). -/
structure Response where
  status : Status
  value : Half
deriving DecidableEq, Repr

/-- An allocator request `AllocReq(buf, newCap)` (R114). -/
structure AllocReq where
  buf : BufId
  newCap : Nat
deriving DecidableEq, Repr

/-- Whose step comes next (00_scope R11, log 5): the transport delivers one byte, or a whole line with nothing in between
(log 6); the host issues a command; the time base pulses; the engine takes its turn; the reset input is asserted (R390). -/
inductive Agent where
  | rx | rxLine | host | tick | engine | reset
deriving DecidableEq, Repr

/-- The complete state. -/
structure State where
  /-- the model's own: the parameters of this instance (R7, R50, log 3) -/
  cfg : Config
  ownAddress : OwnAddress
  commandKind : CommandKind
  outboundState : OutboundState
  inboundActive : Bool
  crcAcc : Half
  scratch : Scratch
  scratchLen : Fin 7
  inCrc : Bool
  crcDigits : Fin 5
  crcRx : Half
  frameBytes : Half
  svcLen : Byte
  txAddr : Byte
  reqAddr : Byte
  reqCount : Byte
  waitActive : Bool
  waitTimer : Half
  /-- the register `TIMEOUT` (R34) -/
  timeout : Half
  svc : Svc
  /-- the register `RESULT` (R36) -/
  result : Half
  /-- the register `RESULTSTATUS` (R36) -/
  resultStatus : WaitStatus
  inbound : Buffer
  outbound : Buffer
  /-- TX output sequence, oldest first (R45(2)) -/
  tx : List TxItem
  /-- response words, oldest first (R45(3), log 14) -/
  responses : List Response
  /-- event sequence, oldest first (R45(4)) -/
  events : List Event
  /-- allocator requests, oldest first (R45(5)) -/
  allocReqs : List AllocReq
  /-- diagnostic sequence, oldest first (R344) -/
  diag : List Reason
  /-- the model's own: bytes the transport holds, front first (R60(3), log 5) -/
  rx : List Byte
  /-- the model's own: command words the host is about to issue, front first (log 5) -/
  cmds : List CmdWord
  /-- the model's own: the order in which the agents take their steps (R70, U14, log 5) -/
  agenda : List Agent
  /-- the model's own: the allocator's coming answers (R131, U3, log 2) -/
  grants : List Bool
  /-- the model's own: how many answers came from the free value `Config.freeGrant` (log 2) -/
  draws : Nat
deriving DecidableEq, Repr

/-- Why the machine stops. Both are raised by a `Feed` step only, in phases of the parser registers that no run reaches and
for which the spec states no behaviour (93 U8; log 10). Safe: the spec's block has no such step. -/
inductive Fault where
  /-- A header character arrives while all six scratch cells are filled and `commandKind = None`; R161: that phase "never
  lasts beyond the step that reaches it". Raised by the header step of `Feed`. Safe. -/
  | scratchOverrun
  /-- The second digit of a pair arrives while the scratch cell that holds the first is no hex digit; R26: in a payload it
  holds "the first hex digit of a pair". Raised by the digit step of `Feed`. Safe. -/
  | halfPairNotHex
deriving DecidableEq, Repr

/-- Why an instruction has no meaning. -/
inductive Refusal where
  /-- Raised by `exec`'s arm of an instruction not modelled yet. Safe. No arm of this model raises it. -/
  | notModelled (mnemonic : String)
deriving DecidableEq, Repr

namespace State

/-- The reset state of an instance with parameters `cfg` (last column of R20's table, R390, R391). The scratch cells are
unspecified there and 0 here (DESIGN CHOICE, unsafe, log 1). -/
def initial (cfg : Config) : State where
  cfg := cfg
  ownAddress := .uninitialized
  commandKind := .none
  outboundState := .idle
  inboundActive := false
  crcAcc := Config.crcSeed
  scratch := { c0 := 0, c1 := 0, c2 := 0, c3 := 0, c4 := 0, c5 := 0 }
  scratchLen := 0
  inCrc := false
  crcDigits := 0
  crcRx := 0
  frameBytes := 0
  svcLen := 0
  txAddr := 0
  reqAddr := 0
  reqCount := 0
  waitActive := false
  waitTimer := 0
  timeout := cfg.timeoutReset
  svc := .none
  result := 0
  resultStatus := .ok
  inbound := Buffer.empty
  outbound := Buffer.empty
  tx := []
  responses := []
  events := []
  allocReqs := []
  diag := []
  rx := []
  cmds := []
  agenda := []
  grants := []
  draws := 0

/-- The machine right after reset, with the default parameters of R7 (log 3) and an environment that holds nothing ready
(log 15). -/
def reset : State := initial Config.default

end State
end Sys2Proof.Machine
end

