-- ==== Sys2Proof/Machine/Flags.lean ====
section
/-! DEFINITION. The codes of the registers and ports, the packed registers STATE and CONFIG (R47, R48), and the predicates
and checks the operations test (R21, R203, R205, R303). Functions of the state; none changes it. -/

namespace Sys2Proof.Machine

/-! ## Codes -/

/-- The 8-bit code of `ownAddress` (R21). -/
def OwnAddress.code : OwnAddress → Byte
  | .uninitialized => 0xFF#8
  | .masterOnly => 0xFE#8
  | .bus a => a.setWidth 8

/-- The 3-bit code of `commandKind` (R22). -/
def CommandKind.code : CommandKind → BitVec 3
  | .none => 0#3
  | .discard => 1#3
  | .masterTransmit => 2#3
  | .masterRequest => 3#3
  | .slaveResponse => 4#3
  | .sendDiscarded => 5#3

/-- The 3-bit code of `outboundState` (R23). -/
def OutboundState.code : OutboundState → BitVec 3
  | .idle => 0#3
  | .locked => 1#3
  | .fillingWait => 2#3
  | .filling => 3#3
  | .filled => 4#3

/-- The 2-bit code of `svc` (R35). -/
def Svc.code : Svc → BitVec 2
  | .none => 0#2
  | .receive => 1#2
  | .request => 2#2

/-- The 8-bit status code (R111). -/
def Status.code : Status → Byte
  | .ok => 0x00#8
  | .invalidAddress => 0x01#8
  | .ownAddress => 0x02#8
  | .endWithoutBegin => 0x03#8
  | .busy => 0x04#8
  | .notBegun => 0x05#8
  | .alreadyBegun => 0x06#8
  | .invalidLength => 0x07#8
  | .notAvailable => 0x08#8
  | .notWritable => 0x09#8
  | .full => 0x0A#8
  | .allocFail => 0x0B#8
  | .noCallback => 0x0C#8
  | .unsupported => 0x0D#8
  | .timeout => 0x0E#8
  | .aborted => 0x0F#8
  | .illegalCommand => 0x10#8
  | .badRegister => 0x11#8

/-- The status of R111 that a wait ended with (R36). -/
def WaitStatus.status : WaitStatus → Status
  | .ok => .ok
  | .timeout => .timeout
  | .aborted => .aborted

/-- The reason code (R113). -/
def Reason.code : Reason → Byte
  | .badStart => 1#8
  | .badKeyword => 2#8
  | .badChar => 3#8
  | .badHex => 4#8
  | .wrongAddress => 5#8
  | .busy => 6#8
  | .overflow => 7#8
  | .allocFail => 8#8
  | .tooLong => 9#8
  | .tooShort => 10#8
  | .crcSyntax => 11#8
  | .crcMismatch => 12#8
  | .crcMissing => 13#8
  | .unexpectedResponse => 14#8
  | .zeroCount => 15#8
  | .truncatedKeyword => 16#8
  | .timeoutAbort => 17#8

/-- The buffer number of an allocator request (R114). -/
def BufId.code : BufId → Byte
  | .inbound => 0#8
  | .outbound => 1#8

/-- The response word `{status, value}` (R110). -/
def Response.word (r : Response) : CmdWord := r.status.code ++ r.value

/-- The event word `{code, status, value}` (R112). -/
def Event.word : Event → EventWord
  | .onReceive n => 0x01#8 ++ Status.ok.code ++ n
  | .onRequest => 0x02#8 ++ Status.ok.code ++ 0#16
  | .reqDone st v => 0x03#8 ++ st.status.code ++ v

/-! ## Predicates on the registers -/

/-- `begun`: a session is open (R21). -/
def begun (s : State) : Bool := s.ownAddress != .uninitialized

/-- `AddrMatch(v)` (R21): the own address is a bus address and equals the byte. -/
def addrMatch (s : State) (v : Byte) : Bool :=
  match s.ownAddress with
  | .bus a => a.setWidth 8 == v
  | .uninitialized => false
  | .masterOnly => false

/-- `outboundState` is FillingWait or Filling: a response is awaited and not complete (R163). -/
def awaiting (s : State) : Bool := s.outboundState == .fillingWait || s.outboundState == .filling

/-- `ReqComplete` is enabled (R303). -/
def reqCompleteEnabled (s : State) : Bool :=
  s.waitActive && (s.outboundState == .filled || s.waitTimer == 0#16)

/-- The block only waits for a line or a command (R412). -/
def quiescent (s : State) : Bool :=
  s.commandKind == .none && s.scratchLen == 0 && s.svc == .none && !s.waitActive && s.outboundState == .idle

/-! ## The checks at a line's end -/

/-- `FrameOK()` (R203): the first check that fails, none where all pass. -/
def frameCheck (s : State) : Option Reason :=
  if s.scratchLen ≠ 0 then some .badHex
  else if s.frameBytes = 0#16 then some .tooShort
  else if s.cfg.crcEnable then
    if !s.inCrc then some .crcMissing
    else if s.crcDigits ≠ 4 then some .crcSyntax
    else if s.crcRx ≠ s.crcAcc then some .crcMismatch
    else none
  else none

/-- `RequestOK()` (R205). -/
def requestCheck (s : State) : Option Reason :=
  if s.frameBytes ≠ 2#16 then some .tooShort
  else if s.svcLen = 0#8 then some .zeroCount
  else if s.commandKind = .masterRequest ∧ s.outboundState ≠ .idle then some .busy
  else none

/-! ## Packed registers -/

/-- One bit from a flag. -/
def bit (b : Bool) : BitVec 1 := BitVec.ofBool b

/-- STATE (R47): bits [15:14] 0, [13:11] crcDigits, [10] inCrc, [9:8] svc, [7] waitActive, [6] inboundActive,
[5:3] outboundState, [2:0] commandKind. -/
def stateWord (s : State) : Half :=
  0#2 ++ BitVec.ofNat 3 s.crcDigits.val ++ bit s.inCrc ++ s.svc.code ++ bit s.waitActive ++ bit s.inboundActive ++
    s.outboundState.code ++ s.commandKind.code

/-- CONFIG (R48): bit [0] ROLE_MASTER, [1] CRC_ENABLE, [2] ALLOC_CAN_FAIL, [3] DIAG_ENABLE, the rest 0. -/
def configWord (cfg : Config) : Half :=
  0#12 ++ bit cfg.diagEnable ++ bit cfg.allocCanFail ++ bit cfg.crcEnable ++ bit cfg.roleMaster

end Sys2Proof.Machine
end

