-- ==== Sys2Proof/Machine/Ops.lean ====
section
/-! DEFINITION. The named operations the steps are made of: storage, the port sequences, the buffer primitives of
40_buffer, the line writer of 43_tx_framer, Discard (R163), and the entry of a callback window and the return from it
(R357, R358), which stand for taking an exception and returning from it. -/

namespace Sys2Proof.Machine

/-! ## Storage: one byte at an index (R10, R60 to R62, R68) -/

/-- The byte at an index, none where the index is not listed. -/
def memRead : Memory → Nat → Option Byte
  | [], _ => none
  | (k, v) :: m, i => if k = i then some v else memRead m i

/-- Write one byte, keeping the indices strictly rising. -/
def memWrite : Memory → Nat → Byte → Memory
  | [], i, b => [(i, b)]
  | (k, v) :: m, i, b =>
    if i < k then (i, b) :: (k, v) :: m
    else if i = k then (i, b) :: m
    else (k, v) :: memWrite m i b

/-- `MemRead(buf, i, 1)` (R10): defined only for `i < buf.length` (R62). -/
def Buffer.read (buf : Buffer) (i : Nat) : Option Byte := if i < buf.length then memRead buf.storage i else none

/-- The bytes at indices `0 .. length-1` in index order (R61, R232). -/
def Buffer.bytes (buf : Buffer) : List Byte := (List.range buf.length).filterMap buf.read

/-- `MemWrite(buf, buf.length, 1, b)` and `length + 1`: the append of R132. -/
def Buffer.append (buf : Buffer) (b : Byte) : Buffer :=
  { buf with storage := memWrite buf.storage buf.length b, length := buf.length + 1 }

/-- A buffer emptied, its capacity set; its storage content is undefined, so no index holds a value (R135, R136, U2). -/
def Buffer.cleared (cap : Nat) : Buffer := { storage := [], length := 0, position := 0, capacity := cap }

namespace State

/-- The buffer of that name. -/
def buf (s : State) : BufId → Buffer
  | .inbound => s.inbound
  | .outbound => s.outbound

/-- The state with that buffer replaced. -/
def setBuf (s : State) : BufId → Buffer → State
  | .inbound, b => { s with inbound := b }
  | .outbound, b => { s with outbound := b }

/-- Appends a response word to the command port (R110, R250). -/
def respond (s : State) (status : Status) (value : Half) : State :=
  { s with responses := s.responses ++ [{ status := status, value := value }] }

/-- `Event(..)`: appends an event word (R10, R112). -/
def raiseEvent (s : State) (e : Event) : State := { s with events := s.events ++ [e] }

/-- `Diag(reason)`: appends a record iff `DIAG_ENABLE` (R10, R344). -/
def diagnose (s : State) (r : Reason) : State := if s.cfg.diagEnable then { s with diag := s.diag ++ [r] } else s

/-- Appends `AllocReq(id, newCap)` to the allocator port (R114). -/
def logAlloc (s : State) (id : BufId) (newCap : Nat) : State :=
  { s with allocReqs := s.allocReqs ++ [{ buf := id, newCap := newCap }] }

/-- Appends items to the TX sequence (R10, R45(2)). -/
def send (s : State) (items : List TxItem) : State := { s with tx := s.tx ++ items }

/-- The bytes wait in the transport, ahead of what it already holds (R45(1), R160). -/
def hold (s : State) (bs : List Byte) : State := { s with rx := bs ++ s.rx }

end State

/-! ## The allocator (R131) -/

/-- The allocator's answer to the next growth request (R131, U3): always granted when `ALLOC_CAN_FAIL` is false, otherwise
free (log 2). -/
def nextGrant (s : State) : Bool :=
  if s.cfg.allocCanFail then
    match s.grants with
    | g :: _ => g
    | [] => Config.freeGrant s.draws
  else true

/-- The state after one answer was drawn (log 2). -/
def drawGrant (s : State) : State :=
  if s.cfg.allocCanFail then
    match s.grants with
    | _ :: gs => { s with grants := gs }
    | [] => { s with draws := s.draws + 1 }
  else s

/-- The capacity a growth to `n` bytes asks for: `max(RoundUp(n), MIN_FLOOR)` (R132). -/
def growCap (cfg : Config) (n : Nat) : Nat := max (roundUp cfg n) cfg.minFloor

/-! ## The buffer primitives (40_buffer) -/

/-- `BufRelease(id)` (R136). -/
def bufRelease (id : BufId) (s : State) : State :=
  (if (s.buf id).capacity ≠ 0 then s.logAlloc id 0 else s).setBuf id (Buffer.cleared 0)

/-- `BufWrite(id, b)` (R132): true with the byte appended, false with the buffer released. -/
def bufWrite (id : BufId) (b : Byte) (s : State) : Bool × State :=
  let buf := s.buf id
  if buf.length + 1 > buf.capacity then
    let newCap := growCap s.cfg (buf.length + 1)
    let asked := drawGrant (s.logAlloc id newCap)
    if nextGrant s then (true, asked.setBuf id (Buffer.append { buf with capacity := newCap } b))
    else (false, bufRelease id asked)
  else (true, s.setBuf id (buf.append b))

/-- The value half of `BufRead` and `BufPeek` (R133, R134): the byte at `position`, none for NotAvailable. -/
def bufPeek (id : BufId) (s : State) : Option Byte := (s.buf id).read (s.buf id).position

/-- The state half of `BufRead` (R133): `position` moves past the byte. -/
def bufAdvance (id : BufId) (s : State) : State :=
  s.setBuf id { s.buf id with position := (s.buf id).position + 1 }

/-- `BufAvailable(id)` (R137). -/
def bufAvailable (id : BufId) (s : State) : Nat := (s.buf id).length - (s.buf id).position

/-- The capacity `BufClear` leaves (R135). -/
def clearedCap (cfg : Config) (buf : Buffer) : Nat :=
  if buf.capacity > buf.length + cfg.minFloor then growCap cfg buf.length else buf.capacity

/-- `BufClear(id)` (R135). -/
def bufClear (id : BufId) (s : State) : State :=
  let newCap := clearedCap s.cfg (s.buf id)
  (if newCap ≠ (s.buf id).capacity then s.logAlloc id newCap else s).setBuf id (Buffer.cleared newCap)

/-- `ResetInbound()` (R140). -/
def resetInbound (s : State) : State := if s.inbound.length ≠ 0 then bufClear .inbound s else s

/-! ## The line writer (43_tx_framer) -/

/-- The characters of one byte, high digit first (R230). -/
def frameByte (v : Byte) : List TxItem :=
  [.tx (hexDigit ((v >>> 4).setWidth 4)), .tx (hexDigit (v.setWidth 4))]

/-- The characters of the integrity suffix (R230, R233). -/
def frameSuffix (cfg : Config) (payload : List Byte) : List TxItem :=
  if cfg.crcEnable then
    let acc := frameSum cfg payload
    [.tx charHash, .tx (hexDigit ((acc >>> 12).setWidth 4)), .tx (hexDigit ((acc >>> 8).setWidth 4)),
      .tx (hexDigit ((acc >>> 4).setWidth 4)), .tx (hexDigit (acc.setWidth 4))]
  else []

/-- What `EmitFrame(keyword, addr, data)` appends to TX, in order (R230). -/
def frameItems (cfg : Config) (k : Keyword) (addr : Byte) (data : List Byte) : List TxItem :=
  (header k).map .tx ++ (addr :: data).flatMap frameByte ++ frameSuffix cfg (addr :: data) ++ [.tx charLF, .flush]

/-- `EmitFrame(keyword, addr, data)` (R230): changes the TX sequence and nothing else. -/
def emitFrame (k : Keyword) (addr : Byte) (data : List Byte) (s : State) : State :=
  s.send (frameItems s.cfg k addr data)

/-! ## Discard: the abort of a received line (R163, R341) -/

/-- `raise Discard(reason)` (R163). -/
def discard (r : Reason) (s : State) : State :=
  let marked : State :=
    { s.diagnose r with commandKind := .discard, scratchLen := 0, inCrc := false, crcDigits := 0 }
  let emptied := if s.inboundActive || awaiting s then bufClear .inbound marked else marked
  { emptied with
    inboundActive := false
    outboundState := if awaiting s then .idle else s.outboundState }

/-! ## The callback window: entry (R357) and return (R358) -/

/-- The entry of a callback window (R204, R205, R357): the address byte is consumed, the line is over, the window opens, the
event is raised. -/
def enterCallback (kind : Svc) (e : Event) (s : State) : State :=
  { s with
    inbound := { s.inbound with position := 1 }
    inboundActive := false
    commandKind := .none
    svc := kind }.raiseEvent e

/-- The window closes and `Feed` is enabled again (R358). -/
def leaveCallback (s : State) : State := { s with svc := .none }

/-! ## The reset input (R390, R391) -/

/-- The reset input asserted: every register at its reset value, the port sequences empty, nothing appended; what the
environment holds is outside the block and stays (log 16). -/
def resetBlock (s : State) : State :=
  { State.initial s.cfg with rx := s.rx, cmds := s.cmds, agenda := s.agenda, grants := s.grants, draws := s.draws }

end Sys2Proof.Machine
end

