-- ==== Sys2Proof/Machine/Commands.lean ====
section
/-! DEFINITION. The host commands (44_host_commands): each is one atomic step that appends exactly one response word
(R250). The checks stand in the rule's order; the first that fails gives the status. -/

namespace Sys2Proof.Machine

/-! ## General -/

/-- `NOP` (R254). -/
def execCmdNop (_a _b : Byte) (s : State) : Host.Outcome State Fault Refusal := .next (s.respond .ok 0)

/-- `(reserved)` (R265): any other opcode changes nothing and returns IllegalCommand. -/
def execCmdReserved (_op _a _b : Byte) (s : State) : Host.Outcome State Fault Refusal :=
  .next (s.respond .illegalCommand 0)

/-! ## Session -/

/-- `BEGIN a` (R251). -/
def execCmdBegin (a _b : Byte) (s : State) : Host.Outcome State Fault Refusal :=
  .next <|
    if s.ownAddress ≠ .uninitialized then s.respond .alreadyBegun 0
    else if a.toNat > 0x7F then s.respond .invalidAddress 0
    else { s with ownAddress := .bus (a.setWidth 7) }.respond .ok 0

/-- `BEGINM` (R252). -/
def execCmdBeginm (_a _b : Byte) (s : State) : Host.Outcome State Fault Refusal :=
  .next <|
    if !s.cfg.roleMaster then s.respond .unsupported 0
    else if s.ownAddress ≠ .uninitialized then s.respond .alreadyBegun 0
    else { s with ownAddress := .masterOnly }.respond .ok 0

/-- Every register of R20 but `TIMEOUT`, the scratch cells (unspecified at reset, log 18) and the buffers at its reset value
(R253). -/
def clearRegisters (s : State) : State :=
  { s with
    ownAddress := .uninitialized
    commandKind := .none
    outboundState := .idle
    inboundActive := false
    crcAcc := Config.crcSeed
    scratchLen := 0
    inCrc := false
    crcDigits := 0
    crcRx := 0
    frameBytes := 0
    svcLen := 0
    txAddr := 0
    reqAddr := 0
    reqCount := 0
    waitActive := false
    waitTimer := 0
    svc := .none
    result := 0
    resultStatus := .ok }

/-- `END` (R253). -/
def execCmdEnd (_a _b : Byte) (s : State) : Host.Outcome State Fault Refusal :=
  let cleared := clearRegisters (bufRelease .outbound (bufRelease .inbound s))
  .next <|
    if s.waitActive then
      ({ cleared with result := 0, resultStatus := .aborted }.raiseEvent (.reqDone .aborted 0)).respond .ok 0
    else cleared.respond .ok 0

/-! ## Sending a transmission -/

/-- The state test of `BEGINTX` and the first three of `REQFROM`: another transaction is in progress (R255, R258). -/
def transactionBusy (s : State) : Bool := s.outboundState != .idle || s.waitActive || s.svc != .none

/-- `BEGINTX a` (R255). -/
def execCmdBegintx (a _b : Byte) (s : State) : Host.Outcome State Fault Refusal :=
  .next <|
    if !begun s then s.respond .notBegun 0
    else if transactionBusy s then s.respond .busy 0
    else { s with txAddr := a, outboundState := .locked }.respond .ok 0

/-- `WRITE` is taken: a transmission is open or a request is being served (R256). -/
def writable (s : State) : Bool := s.outboundState == .locked || s.svc == .request

/-- `WRITE a` (R256). -/
def execCmdWrite (a _b : Byte) (s : State) : Host.Outcome State Fault Refusal :=
  .next <|
    if !writable s then s.respond .notWritable 0
    else if s.outbound.length ≥ s.cfg.maxLen - 1 then s.respond .full 0
    else
      match bufWrite .outbound a s with
      | (true, s') => s'.respond .ok 1
      | (false, s') => s'.respond .allocFail 0

/-- How `ENDTX` judges the target address (R257). -/
def targetStatus (s : State) : Status :=
  if s.txAddr.toNat > 0x7F then .invalidAddress
  else if s.txAddr = s.ownAddress.code then .ownAddress
  else .ok

/-- The transmission is over: the outbound buffer cleared, the block Idle (R257). -/
def closeTransmission (s : State) : State := { bufClear .outbound s with outboundState := .idle }

/-- `ENDTX` (R257, R234). -/
def execCmdEndtx (_a _b : Byte) (s : State) : Host.Outcome State Fault Refusal :=
  .next <|
    if s.outboundState ≠ .locked then s.respond .endWithoutBegin 0
    else
      let sent := if targetStatus s = .ok then emitFrame .i2ct s.txAddr s.outbound.bytes s else s
      (closeTransmission sent).respond (targetStatus s) 0

/-! ## Requesting -/

/-- The checks of `REQFROM a, n` in their order, none where all pass (R258). -/
def requestRefusal (a n : Byte) (s : State) : Option Status :=
  if !s.cfg.roleMaster then some .unsupported
  else if !begun s then some .notBegun
  else if transactionBusy s || s.inboundActive then some .busy
  else if n = 0#8 then some .invalidLength
  else if a.toNat > 0x7F then some .invalidAddress
  else if a = s.ownAddress.code then some .ownAddress
  else none

/-- The request is sent and the wait begins (R258, R235). -/
def startWait (a n : Byte) (s : State) : State :=
  { emitFrame .i2cr a [n] { s with reqAddr := a, reqCount := n } with waitActive := true, waitTimer := s.timeout }

/-- `REQFROM a, b` (R258). -/
def execCmdReqfrom (a b : Byte) (s : State) : Host.Outcome State Fault Refusal :=
  .next <|
    match requestRefusal a b s with
    | some st => s.respond st 0
    | none =>
      match bufWrite .inbound a (resetInbound { s with outboundState := .fillingWait }) with
      | (true, s') => (startWait a b s').respond .ok 0
      | (false, s') => { s' with outboundState := .idle }.respond .allocFail 0

/-! ## Reading what came in -/

/-- `READ` (R260). -/
def execCmdRead (_a _b : Byte) (s : State) : Host.Outcome State Fault Refusal :=
  .next <|
    match bufPeek .inbound s with
    | some v => (bufAdvance .inbound s).respond .ok (v.setWidth 16)
    | none => s.respond .notAvailable 0xFFFF#16

/-- `PEEK` (R261). -/
def execCmdPeek (_a _b : Byte) (s : State) : Host.Outcome State Fault Refusal :=
  .next <|
    match bufPeek .inbound s with
    | some v => s.respond .ok (v.setWidth 16)
    | none => s.respond .notAvailable 0xFFFF#16

/-- `AVAIL` (R262). -/
def execCmdAvail (_a _b : Byte) (s : State) : Host.Outcome State Fault Refusal :=
  .next (s.respond .ok (half (bufAvailable .inbound s)))

/-! ## Ending a callback -/

/-- The padding loop of `CBDONE` (R259), at most `n` rounds; `svcLen` rounds are enough, since each but the last adds a
byte (log 19). -/
def padOutbound : Nat → State → State
  | 0, s => s
  | n + 1, s =>
    if s.outbound.length < s.svcLen.toNat ∧ s.outbound.length < s.cfg.maxLen - 1 then
      match bufWrite .outbound Config.filler s with
      | (true, s') => padOutbound n s'
      | (false, s') => s'
    else s

/-- The service of a request: pad, send the response line, clear both buffers (R259, R236). -/
def finishRequest (s : State) : State :=
  let padded := padOutbound s.svcLen.toNat s
  bufClear .inbound (bufClear .outbound (emitFrame .i2ca padded.ownAddress.code padded.outbound.bytes padded))

/-- `CBDONE` (R259, R358). -/
def execCmdCbdone (_a _b : Byte) (s : State) : Host.Outcome State Fault Refusal :=
  .next <|
    match s.svc with
    | .none => s.respond .noCallback 0
    | .receive => (leaveCallback (bufClear .inbound s)).respond .ok 0
    | .request => (leaveCallback (finishRequest s)).respond .ok 0

/-! ## Configuration and observation -/

/-- `SETTO {a, b}` (R263). -/
def execCmdSetto (a b : Byte) (s : State) : Host.Outcome State Fault Refusal :=
  .next ({ s with timeout := operandAB a b }.respond .ok 0)

/-- The register map (R46): the value of register `r`, zero-extended to 16 bits; none above 23. -/
def readReg (s : State) (r : Byte) : Option Half :=
  match r.toNat with
  | 0 => some (s.ownAddress.code.setWidth 16)
  | 1 => some (stateWord s)
  | 2 => some s.timeout
  | 3 => some s.waitTimer
  | 4 => some (half s.inbound.length)
  | 5 => some (half s.inbound.position)
  | 6 => some (half s.inbound.capacity)
  | 7 => some (half s.outbound.length)
  | 8 => some (half s.outbound.position)
  | 9 => some (half s.outbound.capacity)
  | 10 => some s.result
  | 11 => some (s.resultStatus.status.code.setWidth 16)
  | 12 => some (s.txAddr.setWidth 16)
  | 13 => some (s.reqAddr.setWidth 16)
  | 14 => some (s.reqCount.setWidth 16)
  | 15 => some (s.svcLen.setWidth 16)
  | 16 => some s.crcAcc
  | 17 => some s.crcRx
  | 18 => some s.frameBytes
  | 19 => some (half s.scratchLen.val)
  | 20 => some (configWord s.cfg)
  | 21 => some (half s.cfg.maxLen)
  | 22 => some (half s.cfg.blockSize)
  | 23 => some (half s.cfg.minFloor)
  | _ => none

/-- `RDREG a` (R264). -/
def execCmdRdreg (a _b : Byte) (s : State) : Host.Outcome State Fault Refusal :=
  .next <|
    match readReg s a with
    | some v => s.respond .ok v
    | none => s.respond .badRegister 0

end Sys2Proof.Machine
end

