-- ==== Sys2Proof/Machine/Engine.lean ====
section
/-! DEFINITION. The block's two internal steps (45_master_wait): the tick of the timeout clock and the end of a wait. -/

namespace Sys2Proof.Machine

/-- `Tick` (R302): always enabled; counts the deadline down during a wait. -/
def execTick (s : State) : Host.Outcome State Fault Refusal :=
  .next (if s.waitActive ∧ s.waitTimer ≠ 0#16 then { s with waitTimer := s.waitTimer - 1#16 } else s)

/-- The outcome registers, the end of the wait and the event (R304, last lines). -/
def endWait (st : WaitStatus) (value : Half) (s : State) : State :=
  { s with
    result := value
    resultStatus := st
    outboundState := .idle
    waitActive := false }.raiseEvent (.reqDone st value)

/-- The awaited response is in `inbound`, complete and from the address asked (R304). -/
def responseReady (s : State) : Bool := s.outboundState == .filled && s.inbound.read 0 == some s.reqAddr

/-- R304(c): a deadline in the middle of a response line throws the rest of the line away. -/
def abortResponseLine (s : State) : State :=
  if s.commandKind = .slaveResponse then
    { s.diagnose .timeoutAbort with
      commandKind := .discard
      inboundActive := false
      scratchLen := 0
      inCrc := false
      crcDigits := 0 }
  else s

/-- The effect of `ReqComplete` (R304). -/
def completeRequest (s : State) : State :=
  if responseReady s then
    endWait .ok (s.reqCount.setWidth 16) { s with inbound := { s.inbound with position := 1 } }
  else endWait .timeout 0 (abortResponseLine (bufClear .inbound s))

/-- `ReqComplete` (R303, R304); while it is not enabled the engine has nothing to do (log 9). -/
def execReqComplete (s : State) : Host.Outcome State Fault Refusal :=
  .next (if reqCompleteEnabled s then completeRequest s else s)

end Sys2Proof.Machine
end

