-- ==== Sys2Proof/Machine/Receive.lean ====
section
/-! DEFINITION. The receive operations (41_rx_parser, 42_rx_dispatch): what one received byte does in every state of the
parser. Template of the rules: which byte, which state, what is written, which Discard is raised. -/

namespace Sys2Proof.Machine

/-! ## Payload bytes (R170 to R176) -/

/-- `AppendInbound(v)` (R176). -/
def appendInbound (v : Byte) (s : State) : State :=
  if s.inbound.length ≥ s.cfg.maxLen then discard .overflow s
  else
    match bufWrite .inbound v s with
    | (true, s') => s'
    | (false, s') => discard .allocFail s'

/-- The first payload byte of a frame this block takes: inbound emptied, the frame in flight, the byte appended (R172,
R173). -/
def acceptAddress (v : Byte) (s : State) : State :=
  appendInbound v { resetInbound s with inboundActive := true }

/-- `TransmitByte(v)` (R172). -/
def transmitByte (v : Byte) (s : State) : State :=
  if s.frameBytes = 1#16 then
    if !addrMatch s v then discard .wrongAddress s
    else if s.outboundState ≠ .idle ∨ s.waitActive then discard .busy s
    else acceptAddress v s
  else appendInbound v s

/-- `RequestByte(v)` (R173). -/
def requestByte (v : Byte) (s : State) : State :=
  if s.frameBytes = 1#16 then
    if !addrMatch s v then discard .wrongAddress s
    else if s.waitActive then { s with commandKind := .sendDiscarded }
    else if s.outboundState ≠ .idle then discard .busy s
    else acceptAddress v s
  else if s.frameBytes = 2#16 then appendInbound v { s with svcLen := v }
  else discard .tooLong s

/-- `NackedRequestByte(v)` (R174). -/
def nackedRequestByte (v : Byte) (s : State) : State :=
  if s.frameBytes = 2#16 then { s with svcLen := v } else discard .tooLong s

/-- `ResponseByte(v)` (R175). -/
def responseByte (v : Byte) (s : State) : State :=
  if s.frameBytes = 1#16 then
    if s.outboundState = .fillingWait ∧ s.inbound.read 0 = some v then
      { s with outboundState := .filling, inboundActive := true }
    else discard .unexpectedResponse s
  else if s.outboundState = .filling ∧ s.inboundActive then appendInbound v s
  else discard .unexpectedResponse s

/-- The registers every decoded payload byte moves before it is examined (R170, R323). -/
def countPayload (v : Byte) (s : State) : State :=
  { s with
    frameBytes := satSucc s.frameBytes
    crcAcc := if s.cfg.crcEnable then crcUpdate s.cfg s.crcAcc v else s.crcAcc }

/-- `PayloadByte(v)` (R170). -/
def payloadByte (v : Byte) (s : State) : State :=
  match s.commandKind with
  | .masterTransmit => transmitByte v (countPayload v s)
  | .masterRequest => requestByte v (countPayload v s)
  | .sendDiscarded => nackedRequestByte v (countPayload v s)
  | .slaveResponse => responseByte v (countPayload v s)
  | .none => countPayload v s
  | .discard => countPayload v s

/-! ## Payload characters (R168, R169, R177 to R180) -/

/-- `HexChar(b)` for a digit of value `d` (R169). -/
def hexChar (b : Byte) (d : BitVec 4) (s : State) : Host.Outcome State Fault Refusal :=
  if s.scratchLen = 0 then .next { s with scratch := { s.scratch with c0 := b }, scratchLen := 1 }
  else
    match hexVal? s.scratch.c0 with
    | some hi => .next (payloadByte (pairValue hi d) { s with scratchLen := 0 })
    | none => .fault .halfPairNotHex

/-- `Separator()` (R177). -/
def separator (s : State) : State := if s.scratchLen ≠ 0 then discard .badHex s else s

/-- `Hash()` (R178). -/
def hashMark (s : State) : State :=
  if s.cfg.crcEnable then
    if s.scratchLen = 0 then { s with inCrc := true } else discard .badHex s
  else discard .badChar s

/-- `crcDigits + 1`, for fewer than four digits (R179). -/
def succDigits (n : Fin 5) : Fin 5 := if h : n.val < 4 then ⟨n.val + 1, by omega⟩ else n

/-- `CrcChar(b)` (R179). -/
def crcChar (b : Byte) (s : State) : State :=
  match hexVal? b with
  | some d =>
    if s.crcDigits.val < 4 then { s with crcRx := shiftDigit s.crcRx d, crcDigits := succDigits s.crcDigits }
    else discard .crcSyntax s
  | none => discard .crcSyntax s

/-- `PayloadChar(b)` (R168). -/
def payloadChar (b : Byte) (s : State) : Host.Outcome State Fault Refusal :=
  if s.inCrc then .next (crcChar b s)
  else
    match hexVal? b with
    | some d => hexChar b d s
    | none =>
      if isSep b then .next (separator s)
      else if b = charHash then .next (hashMark s)
      else .next (discard .badChar s)

/-! ## The header (R165 to R167) -/

/-- The scratch cells in order. -/
def Scratch.cells (c : Scratch) : List Byte := [c.c0, c.c1, c.c2, c.c3, c.c4, c.c5]

/-- `scratch[i] <- b`; there are cells 0 to 5 only. -/
def Scratch.set (c : Scratch) (i : Nat) (b : Byte) : Scratch :=
  match i with
  | 0 => { c with c0 := b }
  | 1 => { c with c1 := b }
  | 2 => { c with c2 := b }
  | 3 => { c with c3 := b }
  | 4 => { c with c4 := b }
  | 5 => { c with c5 := b }
  | _ => c

/-- `commandKind` after a header (R92, R166). -/
def kindOf : Keyword → CommandKind
  | .i2ct => .masterTransmit
  | .i2cr => .masterRequest
  | .i2ca => .slaveResponse

/-- The registers a header match sets (R166). -/
def startFrame (k : Keyword) (s : State) : State :=
  { s with
    commandKind := kindOf k
    scratchLen := 0
    crcAcc := Config.crcSeed
    crcRx := 0
    inCrc := false
    crcDigits := 0
    frameBytes := 0
    inboundActive := false }

/-- The sixth header character is in: compare (R166, R167). -/
def headerComplete (s : State) : State :=
  match matchHeader s.scratch.cells with
  | some k => startFrame k s
  | none => discard .badKeyword s

/-- `HeaderChar(b)` (R165, R166). -/
def headerChar (b : Byte) (s : State) : Host.Outcome State Fault Refusal :=
  if s.scratchLen = 0 ∧ b ≠ charPlus then .next (discard .badStart s)
  else if h : s.scratchLen.val < 6 then
    let stored : State := { s with scratch := s.scratch.set s.scratchLen.val b, scratchLen := ⟨s.scratchLen.val + 1, by omega⟩ }
    if stored.scratchLen = 6 then .next (headerComplete stored) else .next stored
  else .fault .scratchOverrun

/-! ## The end of a line (42_rx_dispatch R200 to R208) -/

/-- R201: an empty line does nothing, a line that ends inside its header is discarded. -/
def endOfHeader (s : State) : State :=
  if s.scratchLen ≠ 0 then { discard .truncatedKeyword s with commandKind := .none } else s

/-- R202: the skipped line is over. -/
def endOfSkip (s : State) : State := { s with commandKind := .none }

/-- R208: a check failed at the end of the line. -/
def rejectLine (r : Reason) (s : State) : State := { discard r s with commandKind := .none }

/-- R204: an accepted transmit frame opens the Receive window. -/
def acceptTransmit (s : State) : State := enterCallback .receive (.onReceive (half (s.inbound.length - 1))) s

/-- R205: an accepted request frame opens the Request window. -/
def acceptRequest (s : State) : State := enterCallback .request .onRequest s

/-- R206: a request met during a wait is answered with the negative acknowledgement. -/
def refuseRequest (s : State) : State := { emitFrame .i2ca s.ownAddress.code [] s with commandKind := .none }

/-- R207: the awaited response is complete. -/
def acceptResponse (s : State) : State :=
  { s with outboundState := .filled, inboundActive := false, commandKind := .none }

/-- The branch of `EndOfLine()` that `commandKind` and the checks select (R200). -/
def endBranch (s : State) : State :=
  match s.commandKind with
  | .none => endOfHeader s
  | .discard => endOfSkip s
  | .masterTransmit =>
    match frameCheck s with
    | none => acceptTransmit s
    | some r => rejectLine r s
  | .masterRequest =>
    match frameCheck s <|> requestCheck s with
    | none => acceptRequest s
    | some r => rejectLine r s
  | .sendDiscarded =>
    match frameCheck s <|> requestCheck s with
    | none => refuseRequest s
    | some r => rejectLine r s
  | .slaveResponse =>
    match frameCheck s with
    | none => acceptResponse s
    | some r => rejectLine r s

/-- `EndOfLine()` with the common tail of every branch (R200, 90_conflicts C18). -/
def endOfLine (s : State) : State := { endBranch s with inCrc := false, crcDigits := 0 }

/-! ## Feed (R160) -/

/-- `Feed(b)` while the port is ready (R160). -/
def feedReady (b : Byte) (s : State) : Host.Outcome State Fault Refusal :=
  if b = charLF then .next (endOfLine s)
  else if b = charCR then .next s
  else
    match s.commandKind with
    | .discard => .next s
    | .none => headerChar b s
    | .masterTransmit => payloadChar b s
    | .masterRequest => payloadChar b s
    | .slaveResponse => payloadChar b s
    | .sendDiscarded => payloadChar b s

/-- `Feed(b)` (R160): enabled exactly when `svc = None`; otherwise the port is stalled and the transport keeps the byte
(R45(1), log 8). -/
def feed (b : Byte) (s : State) : Host.Outcome State Fault Refusal :=
  if s.svc = .none then feedReady b s else .next (s.hold [b])

/-- The `Feed` steps of a run of bytes, nothing coming in between (R181); once the port stalls, the rest waits in the
transport. -/
def feedText : List Byte → State → Host.Outcome State Fault Refusal
  | [], s => .next s
  | b :: bs, s =>
    if s.svc = .none then
      match feedReady b s with
      | .next s' => feedText bs s'
      | .fault f => .fault f
      | .refused r => .refused r
    else .next (s.hold (b :: bs))

/-! ## The seven byte classes -/

/-- `Feed.LF` (R200). -/
def execFeedLF (s : State) : Host.Outcome State Fault Refusal := feed charLF s

/-- `Feed.CR` (R162). -/
def execFeedCR (s : State) : Host.Outcome State Fault Refusal := feed charCR s

/-- `Feed.PLUS` (R166, R165, R180, R164, R179 by state, R161). -/
def execFeedPLUS (s : State) : Host.Outcome State Fault Refusal := feed charPlus s

/-- `Feed.HASH` (R178, R179, R166, R165, R164 by state, R161). -/
def execFeedHASH (s : State) : Host.Outcome State Fault Refusal := feed charHash s

/-- `Feed.SEP` (R177, R179, R166, R165, R164 by state, R161). -/
def execFeedSEP (b : Byte) (s : State) : Host.Outcome State Fault Refusal := feed b s

/-- `Feed.HEXDIGIT` (R169, R179, R166, R165, R164 by state, R161). -/
def execFeedHEXDIGIT (b : Byte) (s : State) : Host.Outcome State Fault Refusal := feed b s

/-- `Feed.OTHER` (R180, R179, R166, R165, R164 by state, R161). -/
def execFeedOTHER (b : Byte) (s : State) : Host.Outcome State Fault Refusal := feed b s

end Sys2Proof.Machine
end

