-- ==== Sys2Proof/Machine/Wire.lean ====
section
/-! DEFINITION. The four wire lines as received (30_encoding R96 to R98, 43_tx_framer R237): the `Feed` steps of the line's
characters, one after another with no other agent's step in between (R181; log 6). -/

namespace Sys2Proof.Machine

/-- `I2CT` received (R96, R172, R204). -/
def execI2ct (addr : Byte) (data : List Byte) (sum : Option Half) (s : State) : Host.Outcome State Fault Refusal :=
  feedText (Encode.line .i2ct (addr :: data) sum) s

/-- `I2CR` received (R97, R173, R205, R206). -/
def execI2cr (addr count : Byte) (sum : Option Half) (s : State) : Host.Outcome State Fault Refusal :=
  feedText (Encode.line .i2cr [addr, count] sum) s

/-- `I2CA` received (R98, R175, R207). -/
def execI2ca (addr : Byte) (data : List Byte) (sum : Option Half) (s : State) : Host.Outcome State Fault Refusal :=
  feedText (Encode.line .i2ca (addr :: data) sum) s

/-- `NACK` received: a response without data (R98, R207, R304). -/
def execNack (addr : Byte) (sum : Option Half) (s : State) : Host.Outcome State Fault Refusal :=
  feedText (Encode.line .i2ca [addr] sum) s

end Sys2Proof.Machine
end

