-- ==== Sys2Proof/Machine/Dispatch.lean ====
section
/-! DEFINITION. One arm per operation of spec/opcode_table.json, each a direct call of its meaning. -/

namespace Sys2Proof.Machine

def exec (i : Instr) (s : State) : Host.Outcome State Fault Refusal :=
  match i with
  | .i2ct addr data sum => Sys2Proof.Machine.execI2ct addr data sum s
  | .i2cr addr count sum => Sys2Proof.Machine.execI2cr addr count sum s
  | .i2ca addr data sum => Sys2Proof.Machine.execI2ca addr data sum s
  | .nack addr sum => Sys2Proof.Machine.execNack addr sum s
  | .feedLF => Sys2Proof.Machine.execFeedLF s
  | .feedCR => Sys2Proof.Machine.execFeedCR s
  | .feedPLUS => Sys2Proof.Machine.execFeedPLUS s
  | .feedHASH => Sys2Proof.Machine.execFeedHASH s
  | .feedSEP b => Sys2Proof.Machine.execFeedSEP b s
  | .feedHEXDIGIT b => Sys2Proof.Machine.execFeedHEXDIGIT b s
  | .feedOTHER b => Sys2Proof.Machine.execFeedOTHER b s
  | .cmdNop a b => Sys2Proof.Machine.execCmdNop a b s
  | .cmdBegin a b => Sys2Proof.Machine.execCmdBegin a b s
  | .cmdBeginm a b => Sys2Proof.Machine.execCmdBeginm a b s
  | .cmdEnd a b => Sys2Proof.Machine.execCmdEnd a b s
  | .cmdBegintx a b => Sys2Proof.Machine.execCmdBegintx a b s
  | .cmdWrite a b => Sys2Proof.Machine.execCmdWrite a b s
  | .cmdEndtx a b => Sys2Proof.Machine.execCmdEndtx a b s
  | .cmdReqfrom a b => Sys2Proof.Machine.execCmdReqfrom a b s
  | .cmdRead a b => Sys2Proof.Machine.execCmdRead a b s
  | .cmdPeek a b => Sys2Proof.Machine.execCmdPeek a b s
  | .cmdAvail a b => Sys2Proof.Machine.execCmdAvail a b s
  | .cmdCbdone a b => Sys2Proof.Machine.execCmdCbdone a b s
  | .cmdSetto a b => Sys2Proof.Machine.execCmdSetto a b s
  | .cmdRdreg a b => Sys2Proof.Machine.execCmdRdreg a b s
  | .cmdReserved op a b => Sys2Proof.Machine.execCmdReserved op a b s
  | .tick => Sys2Proof.Machine.execTick s
  | .reqComplete => Sys2Proof.Machine.execReqComplete s

end Sys2Proof.Machine
end

