-- ==== Sys2Proof/Machine/Fetch.lean ====
section
/-! DEFINITION. What the next step runs: the agent whose turn it is brings what stands at its port (00_scope R11, 20_memory
R70, R71; log 5, log 6). -/

namespace Sys2Proof.Machine

/-- What an agent's turn brings. -/
inductive Turn where
  /-- an operation, and the state with what it was read from consumed -/
  | run (i : Instr) (s : State)
  /-- nothing stands at the agent's port -/
  | idle (s : State)
  /-- the reset input is asserted (R390) -/
  | reset (s : State)
deriving DecidableEq, Repr

/-- The front of the RX stream up to its first `\n`, and what follows; none where no `\n` is there. -/
def splitLine : List Byte → Option (List Byte × List Byte)
  | [] => none
  | c :: cs =>
    if c = charLF then some ([c], cs)
    else
      match splitLine cs with
      | some (line, rest) => some (c :: line, rest)
      | none => none

/-- A whole line at the front of the RX stream that is spelled as a line is sent (R90, R102, R103): its operation and the
stream after it. A line spelled otherwise is taken byte by byte (log 6). -/
def wholeLine (rx : List Byte) : Option (Instr × List Byte) :=
  match splitLine rx with
  | some (line, rest) =>
    match decode (.line line) with
    | .ok i => if encode i = .line line then some (i, rest) else none
    | .error _ => none
  | none => none

/-- The operation of what stands at a port; the port stays as it is where the text is no line. -/
def runStimulus (x : Stimulus) (s : State) : Turn :=
  match decode x with
  | .ok i => .run i s
  | .error _ => .idle s

/-- The RX agent's turn: one byte, front first (R45(1), R71(a)). -/
def fetchByte (s : State) : Turn :=
  match s.rx with
  | b :: bs => runStimulus (.byte b) { s with rx := bs }
  | [] => .idle s

/-- The turn of the agent at the front of the agenda; with the agenda used up the engine's own step has its turn
(R411(a)). -/
def fetch (s : State) : Turn :=
  match s.agenda with
  | [] => runStimulus .engine s
  | .rx :: rest => fetchByte { s with agenda := rest }
  | .rxLine :: rest =>
    match wholeLine s.rx with
    | some (i, bs) => .run i { s with agenda := rest, rx := bs }
    | none => fetchByte { s with agenda := rest }
  | .host :: rest =>
    match s.cmds with
    | w :: ws => runStimulus (.command w) { s with agenda := rest, cmds := ws }
    | [] => .idle { s with agenda := rest }
  | .tick :: rest => runStimulus .tick { s with agenda := rest }
  | .engine :: rest => runStimulus .engine { s with agenda := rest }
  | .reset :: rest => .reset { s with agenda := rest }

/-- `s` with what arrives at a port placed where the next step takes it from, and that agent's turn put first. -/
def State.withStimulus (s : State) : Stimulus → State
  | .byte b => { s with rx := b :: s.rx, agenda := .rx :: s.agenda }
  | .line text => { s with rx := text ++ s.rx, agenda := .rxLine :: s.agenda }
  | .command w => { s with cmds := w :: s.cmds, agenda := .host :: s.agenda }
  | .tick => { s with agenda := .tick :: s.agenda }
  | .engine => { s with agenda := .engine :: s.agenda }

end Sys2Proof.Machine
end

