-- ==== Sys2Proof/Machine/Step.lean ====
section
/-! DEFINITION. One step of the machine: the next agent's turn (20_memory R70). -/

namespace Sys2Proof.Machine

/-- One atomic step (R70): the operation that stands at the next agent's port runs. An agent with nothing at its port does
nothing, and the block holds its state (R368). -/
def step (s : State) : Host.Outcome State Fault Refusal :=
  match fetch s with
  | .run i s' => exec i s'
  | .idle s' => .next s'
  | .reset s' => .next (resetBlock s')

/-- `s` with the operation whose `nbits` bits are `w` as the next step's (log 15). -/
def State.withFetchWord (s : State) (nbits w : Nat) : State := s.withStimulus (stimulusOfBits nbits w)

end Sys2Proof.Machine
end

