-- ==== Sys2Proof/Safety.lean ====
section
/-! DEFINITION. What the spec promises of every state a run reaches (10_state R27, R38, R52; 41_rx_parser R161, R200;
45_master_wait R300; 44_host_commands R266), and the terms in which the statements speak. -/

namespace Sys2Proof.Machine

/-- The buffer invariants of R38 and R63: the storage holds exactly the indices below `length`, `position ≤ length ≤
capacity`, the capacity is 0 or at least `MIN_FLOOR`, it is `MIN_FLOOR` or a multiple of `BLOCK_SIZE`, and it never exceeds
what the longest frame asks for. -/
abbrev Buffer.Sound (cfg : Config) (b : Buffer) : Prop :=
  b.storage.map Prod.fst = List.range b.length ∧
    b.position ≤ b.length ∧ b.length ≤ b.capacity ∧
    (b.capacity = 0 ∨ cfg.minFloor ≤ b.capacity) ∧
    (b.capacity = cfg.minFloor ∨ b.capacity % cfg.blockSize = 0) ∧
    b.capacity ≤ growCap cfg cfg.maxLen

/-- Both buffers, with their length bounds (R38) and the outbound cursor that no rule moves (R52). -/
abbrev BuffersSound (s : State) : Prop :=
  s.inbound.Sound s.cfg ∧ s.outbound.Sound s.cfg ∧
    s.inbound.length ≤ s.cfg.maxLen ∧ s.outbound.length ≤ s.cfg.maxLen - 1 ∧ s.outbound.position = 0

/-- The own address is a bus address. -/
def OwnAddress.isBus : OwnAddress → Bool
  | .bus _ => true
  | .uninitialized => false
  | .masterOnly => false

/-- A payload body is being parsed (R22, R161). -/
def CommandKind.isPayload : CommandKind → Bool
  | .masterTransmit => true
  | .masterRequest => true
  | .slaveResponse => true
  | .sendDiscarded => true
  | .none => false
  | .discard => false

/-- A frame taken into `inbound` (R24): what `inboundActive` says of the frame's kind, its address and the transaction. -/
abbrev FrameSound (s : State) : Prop :=
  (s.commandKind.isPayload = false → s.inboundActive = false) ∧
    (s.commandKind = .masterTransmit ∨ s.commandKind = .masterRequest ∨ s.commandKind = .slaveResponse →
      (s.inboundActive = true ↔ s.frameBytes ≠ 0#16)) ∧
    (s.commandKind = .sendDiscarded →
      s.inboundActive = false ∧ s.frameBytes ≠ 0#16 ∧ s.ownAddress.isBus = true) ∧
    (s.inboundActive = true → 1 ≤ s.inbound.length) ∧
    (s.inboundActive = true → s.commandKind = .slaveResponse → s.outboundState = .filling) ∧
    (s.inboundActive = true → s.commandKind ≠ .slaveResponse → s.waitActive = false ∧ s.ownAddress.isBus = true)

/-- The parser phase (R26, R28, R43, R161, R320). -/
abbrev PhaseSound (s : State) : Prop :=
  (s.commandKind = .none → s.scratchLen.val ≤ 5 ∧ (s.scratchLen ≠ 0 → s.scratch.c0 = charPlus)) ∧
    (s.commandKind = .discard → s.scratchLen = 0) ∧
    (s.commandKind.isPayload = true →
      s.scratchLen.val ≤ 1 ∧ (s.scratchLen ≠ 0 → isHex s.scratch.c0 = true ∧ s.inCrc = false)) ∧
    (s.commandKind.isPayload = false → s.inCrc = false) ∧
    (s.inCrc = false → s.crcDigits = 0) ∧
    (s.cfg.crcEnable = false → s.inCrc = false ∧ s.crcRx = 0#16 ∧ s.crcAcc = Config.crcSeed)

/-- The transactions (R23, R27, R33, R52, R266, R300, R363). -/
abbrev TransactionSound (s : State) : Prop :=
  (awaiting s = true ∨ s.outboundState = .filled → s.waitActive = true ∧ s.inbound.read 0 = some s.reqAddr) ∧
    (s.waitActive = true →
      s.cfg.roleMaster = true ∧ begun s = true ∧ s.svc = .none ∧ s.outboundState ≠ .locked ∧
        s.reqAddr.toNat ≤ 0x7F ∧ s.reqAddr ≠ s.ownAddress.code ∧ s.reqCount ≠ 0#8) ∧
    (s.svc ≠ .none →
      s.commandKind = .none ∧ s.scratchLen = 0 ∧ 1 ≤ s.inbound.length ∧ s.ownAddress.isBus = true) ∧
    (s.svc = .request → s.outboundState = .idle ∧ s.svcLen ≠ 0#8) ∧
    (s.outboundState = .locked → begun s = true) ∧
    (s.outboundState ≠ .locked → s.svc ≠ .request → s.outbound.length = 0)

/-- The invariant of the block: legal parameters, sound buffers, parser phase, frame in flight and transactions. -/
abbrev State.Inv (s : State) : Prop :=
  s.cfg.Legal ∧ BuffersSound s ∧ PhaseSound s ∧ FrameSound s ∧ TransactionSound s

/-- A step that goes on: neither a fault nor a refusal. -/
abbrev Runs (o : Host.Outcome State Fault Refusal) : Prop := ∃ t, o = .next t

/-! ## Terms of the statements -/

/-- The parser stands at the start of a line and the RX port is ready (R43, R391). -/
abbrev ParserReady (s : State) : Prop := s.commandKind = .none ∧ s.scratchLen = 0 ∧ s.svc = .none

/-- The allocator grants the next `n` growth requests (R131). -/
abbrev GrantsFor (n : Nat) (s : State) : Prop :=
  s.cfg.allocCanFail = true → n ≤ s.grants.length ∧ ∀ g ∈ s.grants.take n, g = true

/-- The allocator request a `BufClear` of that buffer issues, if any (R135). -/
def clearRequest (id : BufId) (s : State) : List AllocReq :=
  if clearedCap s.cfg (s.buf id) ≠ (s.buf id).capacity then [⟨id, clearedCap s.cfg (s.buf id)⟩] else []

/-- The allocator request a `BufRelease` of that buffer issues, if any (R136). -/
def releaseRequest (id : BufId) (s : State) : List AllocReq := if (s.buf id).capacity ≠ 0 then [⟨id, 0⟩] else []

/-- The buffer that `ResetInbound` makes of `inbound` (R140): trimmed where it held a byte, left alone where it was empty. -/
def resetBuffer (cfg : Config) (b : Buffer) : Buffer :=
  if b.length = 0 then b else Buffer.cleared (clearedCap cfg b)

/-- The allocator request `ResetInbound` issues, if any (R140). -/
def resetRequest (s : State) : List AllocReq := if s.inbound.length = 0 then [] else clearRequest .inbound s

/-- One more byte does not fit into the capacity (R132). -/
abbrev Buffer.NeedsGrowth (b : Buffer) : Prop := b.length + 1 > b.capacity

/-- The capacity after a byte was appended (R132): `max(RoundUp(length + 1), MIN_FLOOR)` where it had to grow. -/
def appendedCap (cfg : Config) (b : Buffer) : Nat :=
  if b.NeedsGrowth then max (roundUp cfg (b.length + 1)) cfg.minFloor else b.capacity

/-- The allocator request an append to the buffer `b` of that name issues (R131, R132): one for a growth, none for a byte that
fits. -/
def appendRequest (id : BufId) (cfg : Config) (b : Buffer) : List AllocReq :=
  if b.NeedsGrowth then [⟨id, max (roundUp cfg (b.length + 1)) cfg.minFloor⟩] else []

/-- The allocator's answers left after an append to `b` (R131): a growth uses up one, where the allocator can refuse (log 2). -/
def appendGrants (b : Buffer) (s : State) : List Bool :=
  if b.NeedsGrowth ∧ s.cfg.allocCanFail = true then s.grants.tail else s.grants

/-- The suffix a sender of this configuration writes behind these payload bytes (R99, R233). -/
def lineSum (cfg : Config) (payload : List Byte) : Option Half :=
  if cfg.crcEnable then some (frameSum cfg payload) else none

/-- The two digits that stand in the scratch cell and in `b` are the payload byte `v`, and the port takes it (R169). -/
abbrev SecondDigit (s : State) (b v : Byte) : Prop :=
  s.svc = .none ∧ s.commandKind.isPayload = true ∧ s.inCrc = false ∧ s.scratchLen ≠ 0 ∧
    ∃ hi lo, hexVal? s.scratch.c0 = some hi ∧ hexVal? b = some lo ∧ v.toNat = 16 * hi.toNat + lo.toNat

/-- The registers that every decoded payload byte moves (R169, R170). -/
def afterByte (v : Byte) (s : State) : State :=
  { s with
    scratchLen := 0
    frameBytes := half (min (s.frameBytes.toNat + 1) 0xFFFF)
    crcAcc := if s.cfg.crcEnable then crcUpdate s.cfg s.crcAcc v else s.crcAcc }

/-- The suffix of the line being parsed, as it stands, satisfies the checks (R203): complete and equal to the sum, where the
integrity layer is present. -/
abbrev SuffixOk (s : State) : Prop :=
  s.cfg.crcEnable = true → s.inCrc = true ∧ s.crcDigits = 4 ∧ s.crcRx = s.crcAcc

/-- Every check of a line's end passes (R203). -/
abbrev FrameOk (s : State) : Prop :=
  s.scratchLen = 0 ∧ s.frameBytes ≠ 0#16 ∧ SuffixOk s

/-- The line is over with a failed check (R208). -/
def rejected (r : Reason) (s : State) : State := { discard r s with commandKind := .none }

/-- A line as it stands in the TX sequence: its characters, then the flush (R230). -/
def sentLine (k : Keyword) (payload : List Byte) (sum : Option Half) : List TxItem :=
  (Encode.line k payload sum).map .tx ++ [.flush]

/-- Operations one after another, whichever agents' they are, up to the first fault or refusal (R70). -/
def execAll : List Instr → State → Host.Outcome State Fault Refusal
  | [], s => .next s
  | i :: is, s =>
    match exec i s with
    | .next t => execAll is t
    | .fault f => .fault f
    | .refused r => .refused r

/-- The `Feed` steps of a run of bytes, each decoded and run on its own (R160). -/
def feedBytes (bs : List Byte) (s : State) : Host.Outcome State Fault Refusal := execAll (bs.map Decode.ofByte) s

/-- Every item of a TX sequence is a flush or a character of R103's set. -/
abbrev OnlySentCharacters (items : List TxItem) : Prop :=
  ∀ c, TxItem.tx c ∈ items →
    c = charLF ∨ c = charPlus ∨ c = charHash ∨ c = charEq ∨ c = 0x49#8 ∨ c = 0x43#8 ∨ c = 0x54#8 ∨ c = 0x52#8 ∨
      c = 0x41#8 ∨ (0x30 ≤ c.toNat ∧ c.toNat ≤ 0x39) ∨ (0x61 ≤ c.toNat ∧ c.toNat ≤ 0x66)

end Sys2Proof.Machine

namespace Sys2Proof

/-- The receive operations: a byte or a whole line at the RX port (R2(a)). -/
def Instr.isReceive : Instr → Bool
  | .i2ct _ _ _ | .i2cr _ _ _ | .i2ca _ _ _ | .nack _ _ => true
  | .feedLF | .feedCR | .feedPLUS | .feedHASH | .feedSEP _ | .feedHEXDIGIT _ | .feedOTHER _ => true
  | .cmdNop _ _ | .cmdBegin _ _ | .cmdBeginm _ _ | .cmdEnd _ _ | .cmdBegintx _ _ | .cmdWrite _ _ | .cmdEndtx _ _ => false
  | .cmdReqfrom _ _ | .cmdRead _ _ | .cmdPeek _ _ | .cmdAvail _ _ | .cmdCbdone _ _ | .cmdSetto _ _ => false
  | .cmdRdreg _ _ | .cmdReserved _ _ _ | .tick | .reqComplete => false

/-- The host commands (R2(b), R250). -/
def Instr.isCommand : Instr → Bool
  | .i2ct _ _ _ | .i2cr _ _ _ | .i2ca _ _ _ | .nack _ _ => false
  | .feedLF | .feedCR | .feedPLUS | .feedHASH | .feedSEP _ | .feedHEXDIGIT _ | .feedOTHER _ => false
  | .cmdNop _ _ | .cmdBegin _ _ | .cmdBeginm _ _ | .cmdEnd _ _ | .cmdBegintx _ _ | .cmdWrite _ _ | .cmdEndtx _ _ => true
  | .cmdReqfrom _ _ | .cmdRead _ _ | .cmdPeek _ _ | .cmdAvail _ _ | .cmdCbdone _ _ | .cmdSetto _ _ => true
  | .cmdRdreg _ _ | .cmdReserved _ _ _ => true
  | .tick | .reqComplete => false

end Sys2Proof
end

