-- ==== Sys2Proof/Certificates/Slice0/Obligations.lean ====
section
/-! DEFINITION. The statements for the provers. Each docstring names the rules it formalises; where one rests on a choice of
the model it names the log entry. -/

open Sys2Proof Sys2Proof.Machine

/-! ## Encoding -/

/-- The encoder and the decoder agree: what stands on a port for a well-formed operation decodes to that operation, with
every operand at every value (R90 to R99, R101, R107 to R109). The NACK's own constructor is log 7's choice. -/
def Obligations.DecodeEncode : Prop :=
  ∀ i : Instr, i.wellFormed = true → decode (encode i) = .ok i

/-- Every received byte and every command word is some well-formed operation, and that operation's encoding is the byte or
word itself: no bit of either is dropped (R101, R107, R109). What a line decodes to is well-formed. -/
def Obligations.EncodeDecode : Prop :=
  (∀ b, ∃ i, decode (.byte b) = .ok i ∧ i.wellFormed = true ∧ encode i = .byte b) ∧
  (∀ w, ∃ i, decode (.command w) = .ok i ∧ i.wellFormed = true ∧ encode i = .command w) ∧
  (∀ text i, decode (.line text) = .ok i → i.wellFormed = true)

/-- The seven classes with their byte values (R101). -/
def Obligations.ByteClasses : Prop :=
  ∀ b : Byte,
    (classOf b = .lf ↔ b.toNat = 0x0A) ∧
    (classOf b = .cr ↔ b.toNat = 0x0D) ∧
    (classOf b = .plus ↔ b.toNat = 0x2B) ∧
    (classOf b = .hash ↔ b.toNat = 0x23) ∧
    (classOf b = .sep ↔ b.toNat = 0x2C ∨ b.toNat = 0x20 ∨ b.toNat = 0x09) ∧
    (classOf b = .hexDigit ↔
      (0x30 ≤ b.toNat ∧ b.toNat ≤ 0x39) ∨ (0x41 ≤ b.toNat ∧ b.toNat ≤ 0x46) ∨ (0x61 ≤ b.toNat ∧ b.toNat ≤ 0x66)) ∧
    (classOf b = .other ↔
      b.toNat ≠ 0x0A ∧ b.toNat ≠ 0x0D ∧ b.toNat ≠ 0x2B ∧ b.toNat ≠ 0x23 ∧ b.toNat ≠ 0x2C ∧ b.toNat ≠ 0x20 ∧
        b.toNat ≠ 0x09 ∧ ¬(0x30 ≤ b.toNat ∧ b.toNat ≤ 0x39) ∧ ¬(0x41 ≤ b.toNat ∧ b.toNat ≤ 0x46) ∧
        ¬(0x61 ≤ b.toNat ∧ b.toNat ≤ 0x66))

/-- Words written out from the encodings of R101, R107 and R108, and the line `+I2CR=2104` with its line feed written as
characters (R97). -/
def Obligations.DecodedWords : Prop :=
  decodeTableWord 8 0x0A = some .feedLF ∧
  decodeTableWord 8 0x2B = some .feedPLUS ∧
  decodeTableWord 8 0x2C = some (.feedSEP 0x2C#8) ∧
  decodeTableWord 8 0x66 = some (.feedHEXDIGIT 0x66#8) ∧
  decodeTableWord 8 0x3D = some (.feedOTHER 0x3D#8) ∧
  decodeTableWord 24 0x012100 = some (.cmdBegin 0x21#8 0x00#8) ∧
  decodeTableWord 24 0x132104 = some (.cmdReqfrom 0x21#8 0x04#8) ∧
  decodeTableWord 24 0x400003 = some (.cmdSetto 0x00#8 0x03#8) ∧
  decodeTableWord 24 0x7F0000 = some (.cmdReserved 0x7F#8 0x00#8 0x00#8) ∧
  decode (.line [0x2B#8, 0x49#8, 0x32#8, 0x43#8, 0x52#8, 0x3D#8, 0x32#8, 0x31#8, 0x30#8, 0x34#8, 0x0A#8]) =
    .ok (.i2cr 0x21#8 0x04#8 none)

/-- However a line is spelled (letter case, separators between pairs, carriage returns anywhere before its line feed, which is
its last character, R90), it does to the block what
the line in the block's own spelling does, but for the characters left in the scratch cells, which no rule reads
(R94, R100, R102, R26). It runs, too. -/
def Obligations.SpellingsAgree : Prop :=
  ∀ (text : List Byte) (i : Instr) (s : State), decode (.line text) = .ok i → ParserReady s →
    ∃ t u, feedText text s = .next t ∧ exec i s = .next u ∧ { t with scratch := u.scratch } = u

/-- A whole line taken in one step does what the `Feed` steps of its bytes do, each decoded and run on its own (R181; the
one-step line is log 6's choice). -/
def Obligations.LineIsItsBytes : Prop :=
  ∀ (i : Instr) (text : List Byte) (s : State), encode i = .line text → s.svc = .none → exec i s = feedBytes text s

/-! ## The step -/

/-- A step runs the operation that stands at the port of the agent whose turn it is, with that agent's turn and what was read
consumed (R11, R45, R70); an agent with nothing at its port changes nothing (R368). The agenda and its engine turn at the
end are log 5's choice, the whole-line turn is log 6's. -/
def Obligations.StepRunsDecoded : Prop :=
  ∀ (i : Instr) (s : State) (ag : List Agent),
    (∀ b bs, s.agenda = .rx :: ag → s.rx = b :: bs → decode (.byte b) = .ok i →
      step s = exec i { s with agenda := ag, rx := bs }) ∧
    (∀ text bs, s.agenda = .rxLine :: ag → s.rx = text ++ bs → decode (.line text) = .ok i → encode i = .line text →
      step s = exec i { s with agenda := ag, rx := bs }) ∧
    (∀ w ws, s.agenda = .host :: ag → s.cmds = w :: ws → decode (.command w) = .ok i →
      step s = exec i { s with agenda := ag, cmds := ws }) ∧
    (s.agenda = .tick :: ag → step s = exec .tick { s with agenda := ag }) ∧
    (s.agenda = .engine :: ag → step s = exec .reqComplete { s with agenda := ag }) ∧
    (s.agenda = [] → step s = exec .reqComplete s) ∧
    (s.agenda = .rx :: ag → s.rx = [] → step s = .next { s with agenda := ag }) ∧
    (s.agenda = .host :: ag → s.cmds = [] → step s = .next { s with agenda := ag })

/-! ## Buffers -/

/-- RoundUp is the least multiple of the block size that is at least its argument; it is 0 at 0 and leaves a multiple as it
is (R130). -/
def Obligations.RoundUpLeast : Prop :=
  ∀ (cfg : Config) (x : Nat), 1 ≤ cfg.blockSize →
    roundUp cfg x % cfg.blockSize = 0 ∧ x ≤ roundUp cfg x ∧
    (∀ m, m % cfg.blockSize = 0 → x ≤ m → roundUp cfg x ≤ m) ∧
    roundUp cfg x = (x + cfg.blockSize - 1) / cfg.blockSize * cfg.blockSize ∧
    roundUp cfg 0 = 0 ∧ (x % cfg.blockSize = 0 → roundUp cfg x = x)

/-- For either buffer: a loop of one-byte writes, each followed by a clear, issues exactly one allocator request, the growth
of the first write (R139); after any sequence of writes and clears of an empty buffer the capacity is at least `MIN_FLOOR`
whenever the buffer holds a byte. -/
def Obligations.Hysteresis : Prop :=
  ∀ (id : BufId) (s : State), 1 ≤ s.cfg.blockSize → s.buf id = Buffer.empty →
    (∀ bs : List Byte, bs ≠ [] → nextGrant s = true →
      (bs.foldl (fun u b => bufClear id (bufWrite id b u).2) s).allocReqs =
        s.allocReqs ++ [⟨id, max (roundUp s.cfg 1) s.cfg.minFloor⟩]) ∧
    (∀ ops : List (Option Byte),
      let t := ops.foldl (fun u op => match op with
        | some b => (bufWrite id b u).2
        | none => bufClear id u) s
      0 < (t.buf id).length → s.cfg.minFloor ≤ (t.buf id).capacity)

/-- What the shrink of a clear keeps (R38, R135): never above the old capacity, never below the length or, for a buffer with
storage, below `MIN_FLOOR`; nothing at all unless the capacity exceeds length plus floor. -/
def Obligations.ClearPolicy : Prop :=
  ∀ (cfg : Config) (buf : Buffer), cfg.Legal → buf.Sound cfg →
    clearedCap cfg buf ≤ buf.capacity ∧ buf.length ≤ clearedCap cfg buf ∧
    (buf.capacity ≠ 0 → cfg.minFloor ≤ clearedCap cfg buf) ∧
    (buf.capacity ≤ buf.length + cfg.minFloor → clearedCap cfg buf = buf.capacity) ∧
    (buf.length + cfg.minFloor < buf.capacity → clearedCap cfg buf = max (roundUp cfg buf.length) cfg.minFloor)

/-! ## Receive operations -/

/-- A byte or a line at a stalled port changes nothing of the block: it stays with the transport, in front and in order
(R45(1), R160; that the step leaves it there is log 8's reading). -/
def Obligations.FeedStalled : Prop :=
  ∀ (i : Instr) (s : State), s.svc ≠ .none →
    (∀ b, encode i = .byte b → exec i s = .next { s with rx := b :: s.rx }) ∧
    (∀ text, encode i = .line text → exec i s = .next { s with rx := text ++ s.rx })

/-- A carriage return in any state, and every byte but LF of a line that is being skipped, change nothing (R162, R164). -/
def Obligations.IgnoredBytes : Prop :=
  (∀ s : State, s.svc = .none → exec .feedCR s = .next s) ∧
  (∀ (i : Instr) (b : Byte) (s : State),
    i = .feedPLUS ∨ i = .feedHASH ∨ i = .feedSEP b ∨ i = .feedHEXDIGIT b ∨ i = .feedOTHER b →
    i.wellFormed = true → s.svc = .none → s.commandKind = .discard → exec i s = .next s)

/-- The first character of a line, if it is no `+`, condemns the line (R165), and the whole of what a Discard does and leaves
alone (R163): the record, the parser's phase, a frame in flight or an awaited response dropped with its buffer. -/
def Obligations.BadStart : Prop :=
  ∀ (i : Instr) (b : Byte) (s : State),
    i = .feedHASH ∨ i = .feedSEP b ∨ i = .feedHEXDIGIT b ∨ i = .feedOTHER b → i.wellFormed = true →
    s.svc = .none → s.commandKind = .none → s.scratchLen = 0 →
    exec i s = .next { s with
      diag := s.diag ++ if s.cfg.diagEnable then [.badStart] else []
      commandKind := .discard
      inCrc := false
      crcDigits := 0
      inbound := if s.inboundActive || awaiting s then Buffer.cleared (clearedCap s.cfg s.inbound) else s.inbound
      allocReqs := s.allocReqs ++ if s.inboundActive || awaiting s then clearRequest .inbound s else []
      inboundActive := false
      outboundState := if awaiting s then .idle else s.outboundState }

/-- A header character short of the sixth is stored in the next scratch cell, whatever it is once a `+` stands first
(R166, first two lines of its pseudocode). -/
def Obligations.HeaderCollected : Prop :=
  ∀ (i : Instr) (b : Byte) (s : State) (n : Fin 7),
    i = .feedPLUS ∧ b = charPlus ∨ i = .feedHASH ∧ b = charHash ∨ i = .feedSEP b ∨ i = .feedHEXDIGIT b ∨ i = .feedOTHER b →
    i.wellFormed = true → s.svc = .none → s.commandKind = .none → s.scratchLen.val < 5 →
    (s.scratchLen = 0 → i = .feedPLUS) → n.val = s.scratchLen.val + 1 →
    ∃ cells, exec i s = .next { s with scratch := cells, scratchLen := n } ∧
      cells.cells = s.scratch.cells.set s.scratchLen.val b

/-- Six characters from the start of a line: if they are a header up to the case of letters, the frame of that keyword begins
with its registers fresh and no buffer touched; if they begin with `+`, hold no line end and are no header, the line is
condemned with BadKeyword (R91, R92, R166, R167). -/
def Obligations.HeaderMatched : Prop :=
  ∀ (cs : List Byte) (s : State), cs.length = 6 → ParserReady s →
    (∀ k, cs.map upper = header k →
      ∃ cells : Scratch, cells.cells = cs ∧
        feedText cs s = .next { s with
          scratch := cells
          commandKind := kindOf k
          crcAcc := 0xFFFF#16
          crcRx := 0#16
          inCrc := false
          crcDigits := 0
          frameBytes := 0#16
          inboundActive := false }) ∧
    (cs.head? = some charPlus → charLF ∉ cs → charCR ∉ cs → (∀ k, cs.map upper ≠ header k) →
      ∃ cells : Scratch, cells.cells = cs ∧
        feedText cs s = .next (discard .badKeyword { s with scratch := cells, scratchLen := 6 }))

/-- Hex digits pair up in order of arrival: the first is kept, the second completes the payload byte
`16 * HexVal(first) + HexVal(second)` (R169). -/
def Obligations.DigitPairs : Prop :=
  ∀ (b : Byte) (s : State), s.svc = .none → s.commandKind.isPayload = true → s.inCrc = false → classOf b = .hexDigit →
    (s.scratchLen = 0 →
      exec (.feedHEXDIGIT b) s = .next { s with scratch := { s.scratch with c0 := b }, scratchLen := 1 }) ∧
    (∀ hi lo, s.scratchLen ≠ 0 → hexVal? s.scratch.c0 = some hi → hexVal? b = some lo →
      exec (.feedHEXDIGIT b) s =
        .next (payloadByte (BitVec.ofNat 8 (16 * hi.toNat + lo.toNat)) { s with scratchLen := 0 }))

/-- The address byte of a frame that the block does not take (R171 to R173): another address is WrongAddress before anything
else is looked at; a transmit frame met during a transaction is Busy; a request met during a wait is marked for the negative
acknowledgement; a request met by an open transmission is Busy. -/
def Obligations.AddressRefused : Prop :=
  ∀ (b v : Byte) (s : State), SecondDigit s b v → s.frameBytes = 0#16 →
    s.commandKind = .masterTransmit ∨ s.commandKind = .masterRequest →
    (addrMatch s v = false → exec (.feedHEXDIGIT b) s = .next (discard .wrongAddress (afterByte v s))) ∧
    (addrMatch s v = true → s.commandKind = .masterTransmit → s.outboundState ≠ .idle ∨ s.waitActive = true →
      exec (.feedHEXDIGIT b) s = .next (discard .busy (afterByte v s))) ∧
    (addrMatch s v = true → s.commandKind = .masterRequest → s.waitActive = true →
      exec (.feedHEXDIGIT b) s = .next { afterByte v s with commandKind := .sendDiscarded }) ∧
    (addrMatch s v = true → s.commandKind = .masterRequest → s.waitActive = false → s.outboundState ≠ .idle →
      exec (.feedHEXDIGIT b) s = .next (discard .busy (afterByte v s)))

/-- The address byte of a frame that the block takes (R172, R173, R140): `inbound` holds that byte and nothing else, the
frame is in flight, and besides the parser's registers only the allocator's side moves: the trim of what `inbound` held, then
the one growth an empty capacity needs, to `max(RoundUp(1), MIN_FLOOR)`, and no request where the byte fits (R132). A refused
growth condemns the line (R176). The answers are taken from the front of the model's list (log 2). -/
def Obligations.AddressAccepted : Prop :=
  ∀ (b v : Byte) (s : State), SecondDigit s b v → s.frameBytes = 0#16 →
    s.commandKind = .masterTransmit ∨ s.commandKind = .masterRequest →
    addrMatch s v = true → s.outboundState = .idle → s.waitActive = false →
    s.cfg.Legal → s.inbound.Sound s.cfg →
    (GrantsFor 1 s →
      ∃ t, exec (.feedHEXDIGIT b) s = .next t ∧
        t.inbound.bytes = [v] ∧ t.inbound.length = 1 ∧ t.inbound.position = 0 ∧
        t.inbound.capacity = appendedCap s.cfg (resetBuffer s.cfg s.inbound) ∧
        t = { afterByte v s with
          inboundActive := true
          inbound := t.inbound
          allocReqs := s.allocReqs ++ resetRequest s ++ appendRequest .inbound s.cfg (resetBuffer s.cfg s.inbound)
          grants := appendGrants (resetBuffer s.cfg s.inbound) s }) ∧
    (∀ gs, s.inbound.capacity = 0 → s.cfg.allocCanFail = true → s.grants = false :: gs →
      exec (.feedHEXDIGIT b) s = .next (discard .allocFail { afterByte v s with
        inboundActive := true
        allocReqs := s.allocReqs ++ [⟨.inbound, growCap s.cfg 1⟩]
        grants := gs }))

/-- A further payload byte of a frame in flight is appended to `inbound` behind the bytes that are there, and is `svcLen` too
where it is a request's second (R172, R173, R175, R176). A byte that fits asks the allocator nothing; one that does not asks
once, for `max(RoundUp(length + 1), MIN_FLOOR)`, and that is the capacity then (R131, R132; the answers' list is log 2's). -/
def Obligations.DataByteAppended : Prop :=
  ∀ (b v : Byte) (s : State), SecondDigit s b v → s.frameBytes ≠ 0#16 →
    s.commandKind = .masterTransmit ∨ (s.commandKind = .masterRequest ∧ s.frameBytes = 1#16) ∨
      (s.commandKind = .slaveResponse ∧ s.outboundState = .filling ∧ s.inboundActive = true) →
    s.cfg.Legal → s.inbound.Sound s.cfg → s.inbound.length < s.cfg.maxLen → GrantsFor 1 s →
    ∃ t, exec (.feedHEXDIGIT b) s = .next t ∧
      t.inbound.bytes = s.inbound.bytes ++ [v] ∧ t.inbound.length = s.inbound.length + 1 ∧
      t.inbound.position = s.inbound.position ∧ t.inbound.capacity = appendedCap s.cfg s.inbound ∧
      t = { afterByte v s with
        svcLen := if s.commandKind = .masterRequest then v else s.svcLen
        inbound := t.inbound
        allocReqs := s.allocReqs ++ appendRequest .inbound s.cfg s.inbound
        grants := appendGrants s.inbound s }

/-- Payload bytes that reach no buffer. `inbound` full is Overflow before the allocator is asked; a refused growth releases
`inbound` and is AllocFail (R176, R131, R132; the refusal is the allocator's next answer, log 2). A request that is being
refused keeps its length byte only; a third payload byte of a request is TooLong in both kinds (R173, R174). -/
def Obligations.BytesTurnedAway : Prop :=
  ∀ (b v : Byte) (s : State), SecondDigit s b v →
    (s.frameBytes ≠ 0#16 →
      s.commandKind = .masterTransmit ∨ (s.commandKind = .masterRequest ∧ s.frameBytes = 1#16) ∨
        (s.commandKind = .slaveResponse ∧ s.outboundState = .filling ∧ s.inboundActive = true) →
      s.cfg.maxLen ≤ s.inbound.length →
      exec (.feedHEXDIGIT b) s = .next (discard .overflow { afterByte v s with
        svcLen := if s.commandKind = .masterRequest then v else s.svcLen })) ∧
    (∀ gs, s.frameBytes ≠ 0#16 →
      s.commandKind = .masterTransmit ∨ (s.commandKind = .masterRequest ∧ s.frameBytes = 1#16) ∨
        (s.commandKind = .slaveResponse ∧ s.outboundState = .filling ∧ s.inboundActive = true) →
      s.inbound.length < s.cfg.maxLen →
      s.inbound.capacity = s.inbound.length → s.cfg.allocCanFail = true → s.grants = false :: gs →
      exec (.feedHEXDIGIT b) s = .next (discard .allocFail { afterByte v s with
        svcLen := if s.commandKind = .masterRequest then v else s.svcLen
        inbound := Buffer.cleared 0
        allocReqs := s.allocReqs ++ [⟨.inbound, growCap s.cfg (s.inbound.length + 1)⟩] ++ releaseRequest .inbound s
        grants := gs })) ∧
    (s.commandKind = .sendDiscarded → s.frameBytes = 1#16 →
      exec (.feedHEXDIGIT b) s = .next { afterByte v s with svcLen := v }) ∧
    (s.commandKind = .sendDiscarded ∨ s.commandKind = .masterRequest → 2 ≤ s.frameBytes.toNat →
      exec (.feedHEXDIGIT b) s = .next (discard .tooLong (afterByte v s)))

/-- The address byte of a response line confirms an awaited response, and is not appended; in every other situation the line
is UnexpectedResponse, as is a further byte that nothing awaits (R175). -/
def Obligations.ResponseAddress : Prop :=
  ∀ (b v : Byte) (s : State), SecondDigit s b v → s.commandKind = .slaveResponse →
    (s.frameBytes = 0#16 → s.outboundState = .fillingWait → s.inbound.read 0 = some v →
      exec (.feedHEXDIGIT b) s = .next { afterByte v s with outboundState := .filling, inboundActive := true }) ∧
    (s.frameBytes = 0#16 → ¬(s.outboundState = .fillingWait ∧ s.inbound.read 0 = some v) →
      exec (.feedHEXDIGIT b) s = .next (discard .unexpectedResponse (afterByte v s))) ∧
    (s.frameBytes ≠ 0#16 → ¬(s.outboundState = .filling ∧ s.inboundActive = true) →
      exec (.feedHEXDIGIT b) s = .next (discard .unexpectedResponse (afterByte v s)))

/-- The characters that are no digit of a pair. Between the pairs a separator is skipped or splits a pair, `#` closes the
payload, splits a pair or is illegal, `+` and every other character are illegal (R177, R178, R180). After `#` up to four hex
digits are shifted into `crcRx`; a fifth digit and every other character but the two line bytes condemn the line (R179). -/
def Obligations.PayloadCharacters : Prop :=
  ∀ (b : Byte) (s : State), s.svc = .none → s.commandKind.isPayload = true →
    (s.inCrc = false →
      (classOf b = .sep → s.scratchLen = 0 → exec (.feedSEP b) s = .next s) ∧
      (classOf b = .sep → s.scratchLen ≠ 0 → exec (.feedSEP b) s = .next (discard .badHex s)) ∧
      (s.cfg.crcEnable = true → s.scratchLen = 0 → exec .feedHASH s = .next { s with inCrc := true }) ∧
      (s.cfg.crcEnable = true → s.scratchLen ≠ 0 → exec .feedHASH s = .next (discard .badHex s)) ∧
      (s.cfg.crcEnable = false → exec .feedHASH s = .next (discard .badChar s)) ∧
      exec .feedPLUS s = .next (discard .badChar s) ∧
      (classOf b = .other → exec (.feedOTHER b) s = .next (discard .badChar s))) ∧
    (s.inCrc = true →
      (∀ (d : BitVec 4) (n : Fin 5), hexVal? b = some d → s.crcDigits.val < 4 → n.val = s.crcDigits.val + 1 →
        exec (.feedHEXDIGIT b) s =
          .next { s with crcRx := BitVec.ofNat 16 (s.crcRx.toNat * 16 + d.toNat), crcDigits := n }) ∧
      (classOf b = .hexDigit → s.crcDigits = 4 → exec (.feedHEXDIGIT b) s = .next (discard .crcSyntax s)) ∧
      exec .feedPLUS s = .next (discard .crcSyntax s) ∧
      exec .feedHASH s = .next (discard .crcSyntax s) ∧
      (classOf b = .sep → exec (.feedSEP b) s = .next (discard .crcSyntax s)) ∧
      (classOf b = .other → exec (.feedOTHER b) s = .next (discard .crcSyntax s)))

/-! ## The end of a line -/

/-- Whatever the outcome, a line feed brings the parser back to the start of a line, with no frame in flight, and it always
runs (R200, R43). -/
def Obligations.LineEndPhase : Prop :=
  ∀ s : State, s.Inv → s.svc = .none →
    ∃ t, exec .feedLF s = .next t ∧ t.commandKind = .none ∧ t.scratchLen = 0 ∧ t.inCrc = false ∧ t.crcDigits = 0 ∧
      t.inboundActive = false

/-- The line feed outside a frame: an empty line does nothing at all, a line cut inside its header is TruncatedKeyword, the
end of a skipped line only ends the skipping (R201, R202). -/
def Obligations.LineEndOutsideFrame : Prop :=
  ∀ s : State, s.svc = .none → s.inCrc = false → s.crcDigits = 0 →
    (s.commandKind = .none → s.scratchLen = 0 → exec .feedLF s = .next s) ∧
    (s.commandKind = .none → s.scratchLen ≠ 0 → exec .feedLF s = .next (rejected .truncatedKeyword s)) ∧
    (s.commandKind = .discard → exec .feedLF s = .next { s with commandKind := .none })

/-- The checks at the end of a frame, in their order: the first that fails gives the reason, the line is dropped and no event
is raised (R203, R205, R208). -/
def Obligations.FrameRejected : Prop :=
  ∀ s : State, s.svc = .none → s.commandKind.isPayload = true →
    (s.scratchLen ≠ 0 → exec .feedLF s = .next (rejected .badHex s)) ∧
    (s.scratchLen = 0 → s.frameBytes = 0#16 → exec .feedLF s = .next (rejected .tooShort s)) ∧
    (s.scratchLen = 0 → s.frameBytes ≠ 0#16 → s.cfg.crcEnable = true →
      (s.inCrc = false → exec .feedLF s = .next (rejected .crcMissing s)) ∧
      (s.inCrc = true → s.crcDigits ≠ 4 → exec .feedLF s = .next (rejected .crcSyntax s)) ∧
      (s.inCrc = true → s.crcDigits = 4 → s.crcRx ≠ s.crcAcc → exec .feedLF s = .next (rejected .crcMismatch s))) ∧
    (FrameOk s → s.commandKind = .masterRequest ∨ s.commandKind = .sendDiscarded →
      (s.frameBytes ≠ 2#16 → exec .feedLF s = .next (rejected .tooShort s)) ∧
      (s.frameBytes = 2#16 → s.svcLen = 0#8 → exec .feedLF s = .next (rejected .zeroCount s)) ∧
      (s.frameBytes = 2#16 → s.svcLen ≠ 0#8 → s.commandKind = .masterRequest → s.outboundState ≠ .idle →
        exec .feedLF s = .next (rejected .busy s)))

/-- An accepted transmit frame opens the Receive window with the event that carries the number of data bytes, an accepted
request frame the Request window; the address byte is consumed, the parser is at a new line, and nothing else moves (R204,
R205, with the common tail of R200). -/
def Obligations.CallbackOpened : Prop :=
  ∀ s : State, s.svc = .none → FrameOk s →
    (s.commandKind = .masterTransmit →
      exec .feedLF s = .next { s with
        inbound := { s.inbound with position := 1 }
        inboundActive := false
        commandKind := .none
        svc := .receive
        inCrc := false
        crcDigits := 0
        events := s.events ++ [.onReceive (BitVec.ofNat 16 (s.inbound.length - 1))] }) ∧
    (s.commandKind = .masterRequest → s.frameBytes = 2#16 → s.svcLen ≠ 0#8 → s.outboundState = .idle →
      exec .feedLF s = .next { s with
        inbound := { s.inbound with position := 1 }
        inboundActive := false
        commandKind := .none
        svc := .request
        inCrc := false
        crcDigits := 0
        events := s.events ++ [.onRequest] })

/-- A request met during the wait is answered with the negative acknowledgement `+I2CA=` and the block's own address, and
nothing else: no buffer, no event, no record, the wait goes on (R206, R237). The end of an awaited response makes it complete
(R207). Both with the common tail of R200. -/
def Obligations.LineEndInWait : Prop :=
  ∀ s : State, s.svc = .none → FrameOk s →
    (s.commandKind = .sendDiscarded → s.frameBytes = 2#16 → s.svcLen ≠ 0#8 →
      exec .feedLF s = .next { s with
        tx := s.tx ++ sentLine .i2ca [s.ownAddress.code] (lineSum s.cfg [s.ownAddress.code])
        commandKind := .none
        inCrc := false
        crcDigits := 0 }) ∧
    (s.commandKind = .slaveResponse →
      exec .feedLF s = .next { s with
        outboundState := .filled
        inboundActive := false
        commandKind := .none
        inCrc := false
        crcDigits := 0 })

/-! ## Whole lines -/

/-- A transmit line for this block, its suffix as the configuration asks, is delivered: `inbound` holds the address and the
data bytes in order, one OnReceive event with their number, the Receive window open; besides the parser's stale registers
and the allocator's side nothing moves (R66, R96, R172, R204, R321). -/
def Obligations.TransmitLineDelivered : Prop :=
  ∀ (addr : Byte) (data : List Byte) (s : State), s.Inv → ParserReady s → addrMatch s addr = true →
    s.outboundState = .idle → s.waitActive = false → data.length + 1 ≤ s.cfg.maxLen → GrantsFor (data.length + 1) s →
    ∃ t, exec (.i2ct addr data (lineSum s.cfg (addr :: data))) s = .next t ∧
      t.inbound.bytes = addr :: data ∧ t.inbound.length = data.length + 1 ∧
      t = { s with
        inbound := { t.inbound with position := 1 }
        svc := .receive
        events := s.events ++ [.onReceive (half data.length)]
        frameBytes := half (data.length + 1)
        crcAcc := if s.cfg.crcEnable then frameSum s.cfg (addr :: data) else 0xFFFF#16
        crcRx := if s.cfg.crcEnable then frameSum s.cfg (addr :: data) else 0#16
        inboundActive := false
        inCrc := false
        crcDigits := 0
        scratch := t.scratch
        allocReqs := t.allocReqs
        grants := t.grants
        draws := t.draws }

/-- A request line for this block opens the Request window with the length asked in `svcLen` and as the one unread byte of
`inbound` (R97, R173, R205); met during a wait it is answered with the negative acknowledgement and leaves every buffer and
the wait alone (R174, R206). -/
def Obligations.RequestLineServed : Prop :=
  ∀ (addr count : Byte) (s : State), s.Inv → ParserReady s → addrMatch s addr = true → count ≠ 0#8 →
    (s.outboundState = .idle → s.waitActive = false → GrantsFor 2 s →
      ∃ t, exec (.i2cr addr count (lineSum s.cfg [addr, count])) s = .next t ∧
        t.inbound.bytes = [addr, count] ∧ t.inbound.position = 1 ∧
        t = { s with
          inbound := t.inbound
          svc := .request
          svcLen := count
          events := s.events ++ [.onRequest]
          frameBytes := 2#16
          crcAcc := t.crcAcc
          crcRx := t.crcRx
          scratch := t.scratch
          inboundActive := false
          inCrc := false
          crcDigits := 0
          allocReqs := t.allocReqs
          grants := t.grants
          draws := t.draws }) ∧
    (s.waitActive = true →
      ∃ t, exec (.i2cr addr count (lineSum s.cfg [addr, count])) s = .next t ∧
        t = { s with
          tx := s.tx ++ sentLine .i2ca [addr] (lineSum s.cfg [addr])
          svcLen := count
          frameBytes := 2#16
          crcAcc := t.crcAcc
          crcRx := t.crcRx
          scratch := t.scratch
          inboundActive := false
          inCrc := false
          crcDigits := 0 })

/-- The awaited response line fills `inbound` behind the pre-loaded address and is complete at its end, with or without data
(R98, R175, R207); no event is raised, `ReqComplete` is enabled (R303). -/
def Obligations.ResponseLineAwaited : Prop :=
  ∀ (addr : Byte) (data : List Byte) (s : State), s.Inv → ParserReady s → s.outboundState = .fillingWait →
    s.inbound.bytes = [addr] → data.length + 1 ≤ s.cfg.maxLen → GrantsFor data.length s →
    let sum := lineSum s.cfg (addr :: data)
    ∃ t, (data ≠ [] → exec (.i2ca addr data sum) s = .next t) ∧ (data = [] → exec (.nack addr sum) s = .next t) ∧
      t.inbound.bytes = addr :: data ∧ t.inbound.position = s.inbound.position ∧
      t.outboundState = .filled ∧ reqCompleteEnabled t = true ∧
      t = { s with
        inbound := t.inbound
        outboundState := .filled
        frameBytes := half (data.length + 1)
        crcAcc := t.crcAcc
        crcRx := t.crcRx
        scratch := t.scratch
        inboundActive := false
        inCrc := false
        crcDigits := 0
        allocReqs := t.allocReqs
        grants := t.grants
        draws := t.draws }

/-- With the integrity layer, a line whose suffix is missing or differs from the sum of its payload is discarded as a whole:
no event, nothing sent, no window; an awaited response is lost (R325, R320). -/
def Obligations.WrongSumDiscarded : Prop :=
  ∀ (i : Instr) (k : Keyword) (payload : List Byte) (sum : Option Half) (s : State),
    encode i = .line (Encode.line k payload sum) → s.cfg.crcEnable = true → s.Inv → ParserReady s →
    sum ≠ some (frameSum s.cfg payload) →
    ∃ t, exec i s = .next t ∧ t.events = s.events ∧ t.tx = s.tx ∧ t.svc = .none ∧ t.commandKind = .none ∧
      t.responses = s.responses ∧ (awaiting s = true → t.outboundState = .idle ∧ t.inbound.length = 0)

/-- Round trip between two blocks built alike: the line one block's ENDTX sends, fed byte by byte into the block it is
addressed to, is delivered there with exactly the bytes written, in order (R66, R234, R204). -/
def Obligations.RoundTrip : Prop :=
  ∀ (x y : Byte) (a b : State), a.Inv → b.Inv → ParserReady b →
    a.outboundState = .locked → a.txAddr.toNat ≤ 0x7F → a.txAddr ≠ a.ownAddress.code →
    addrMatch b a.txAddr = true → b.outboundState = .idle → b.waitActive = false →
    a.cfg.crcEnable = b.cfg.crcEnable → a.cfg.crcFunction = b.cfg.crcFunction →
    a.outbound.length + 1 ≤ b.cfg.maxLen → GrantsFor (a.outbound.length + 1) b →
    ∃ a' text b', exec (.cmdEndtx x y) a = .next a' ∧ a'.tx = a.tx ++ text.map .tx ++ [.flush] ∧
      feedBytes text b = .next b' ∧
      b'.inbound.bytes = a.txAddr :: a.outbound.bytes ∧ b'.inbound.position = 1 ∧ b'.svc = .receive ∧
      b'.events = b.events ++ [.onReceive (half a.outbound.length)]

/-! ## What is sent -/

/-- The line writer appends exactly the characters of the line's encoding and one flush; the line has
`6 + 2 * (1 + n) + (CRC_ENABLE ? 5 : 0) + 1` bytes for `n` data bytes; every character is of R103's set
(R230, R231, R232, R233, R103). -/
def Obligations.EmittedLine : Prop :=
  ∀ (cfg : Config) (k : Keyword) (addr : Byte) (data : List Byte),
    frameItems cfg k addr data = sentLine k (addr :: data) (lineSum cfg (addr :: data)) ∧
    (frameItems cfg k addr data).length = (6 + 2 * (1 + data.length) + (if cfg.crcEnable then 5 else 0) + 1) + 1 ∧
    OnlySentCharacters (frameItems cfg k addr data) ∧
    (cfg.crcEnable = false → TxItem.tx charHash ∉ frameItems cfg k addr data)

/-- The block only appends to its output sequences, and one operation appends at most one whole line and its flush to TX, at
most one event, and diagnostic records only with `DIAG_ENABLE` (R71(c), R238, R344, R355). -/
def Obligations.OutputSequences : Prop :=
  ∀ (i : Instr) (s t : State), exec i s = .next t →
    (t.tx = s.tx ∨ ∃ k addr data, t.tx = s.tx ++ sentLine k (addr :: data) (lineSum s.cfg (addr :: data))) ∧
    (t.events = s.events ∨ ∃ e, t.events = s.events ++ [e]) ∧
    (∃ rs, t.allocReqs = s.allocReqs ++ rs) ∧
    (∃ ds, t.diag = s.diag ++ ds ∧ (s.cfg.diagEnable = false → ds = []))

/-! ## Rules of the whole block -/

/-- Which operations can change which register, and nothing else does (R21 to R36, R50): the parser's registers are the
receive operations', but for what a deadline in a response line (R304) and END reset; that END leaves the scratch cells, whose
reset value the spec leaves unspecified (R20, R390), is log 18's reading (DEDUCED); of `outboundState` it gives the moves that
R23 lists for the host commands, ReqComplete and END, and of a receive operation only that it never locks (R23's moves for
those are in ResponseAddress, LineEndInWait and BadStart); `inbound` is moved by the receive operations, REQFROM, READ
(its cursor only), CBDONE, ReqComplete and END, and bytes are put into it by the receive operations and REQFROM alone;
`outbound` by WRITE, and by the operations that end its use (R61). -/
def Obligations.RegisterWriters : Prop :=
  ∀ (i : Instr) (s t : State), exec i s = .next t →
    t.cfg = s.cfg ∧
    (t.ownAddress ≠ s.ownAddress → ∃ a b, i = .cmdBegin a b ∨ i = .cmdBeginm a b ∨ i = .cmdEnd a b) ∧
    (t.commandKind ≠ s.commandKind ∨ t.inboundActive ≠ s.inboundActive ∨ t.scratchLen ≠ s.scratchLen ∨ t.inCrc ≠ s.inCrc ∨
        t.crcDigits ≠ s.crcDigits →
      i.isReceive = true ∨ i = .reqComplete ∨ ∃ a b, i = .cmdEnd a b) ∧
    (t.crcAcc ≠ s.crcAcc ∨ t.crcRx ≠ s.crcRx ∨ t.frameBytes ≠ s.frameBytes ∨ t.svcLen ≠ s.svcLen →
      i.isReceive = true ∨ ∃ a b, i = .cmdEnd a b) ∧
    (t.scratch ≠ s.scratch → i.isReceive = true) ∧
    (t.outboundState ≠ s.outboundState →
      (i.isReceive = true ∧ t.outboundState ≠ .locked) ∨ (i = .reqComplete ∧ t.outboundState = .idle) ∨
        ∃ a b, (i = .cmdBegintx a b ∧ s.outboundState = .idle ∧ t.outboundState = .locked) ∨
          (i = .cmdEndtx a b ∧ s.outboundState = .locked ∧ t.outboundState = .idle) ∨
          (i = .cmdReqfrom a b ∧ s.outboundState = .idle ∧ t.outboundState = .fillingWait) ∨
          (i = .cmdEnd a b ∧ t.outboundState = .idle)) ∧
    (t.inbound ≠ s.inbound →
      i.isReceive = true ∨ i = .reqComplete ∨
        ∃ a b, i = .cmdReqfrom a b ∨ i = .cmdCbdone a b ∨ i = .cmdEnd a b ∨
          (i = .cmdRead a b ∧ t.inbound = { s.inbound with position := t.inbound.position })) ∧
    (s.inbound.length < t.inbound.length → i.isReceive = true ∨ ∃ a b, i = .cmdReqfrom a b) ∧
    (t.timeout ≠ s.timeout → ∃ a b, i = .cmdSetto a b) ∧
    (t.result ≠ s.result ∨ t.resultStatus ≠ s.resultStatus → i = .reqComplete ∨ ∃ a b, i = .cmdEnd a b) ∧
    (t.txAddr ≠ s.txAddr → ∃ a b, i = .cmdBegintx a b ∨ i = .cmdEnd a b) ∧
    (t.reqAddr ≠ s.reqAddr ∨ t.reqCount ≠ s.reqCount → ∃ a b, i = .cmdReqfrom a b ∨ i = .cmdEnd a b) ∧
    (t.waitActive ≠ s.waitActive → i = .reqComplete ∨ ∃ a b, i = .cmdReqfrom a b ∨ i = .cmdEnd a b) ∧
    (t.waitTimer ≠ s.waitTimer → i = .tick ∨ ∃ a b, i = .cmdReqfrom a b ∨ i = .cmdEnd a b) ∧
    (t.svc ≠ s.svc → i.isReceive = true ∨ ∃ a b, i = .cmdCbdone a b ∨ i = .cmdEnd a b) ∧
    (t.outbound ≠ s.outbound →
      ∃ a b, i = .cmdWrite a b ∨ i = .cmdEndtx a b ∨ i = .cmdCbdone a b ∨ i = .cmdEnd a b) ∧
    (s.outbound.length < t.outbound.length → ∃ a b, i = .cmdWrite a b)

/-- Each event has its one kind of cause (R354), for every operation the encodings admit: OnReceive and OnRequest come from the line feed of a received line and open
their window, ReqDone from ReqComplete or from an END during a wait; a line feed never both raises an event and records a
Discard (R356(d)). -/
def Obligations.EventCauses : Prop :=
  ∀ (i : Instr) (s t : State), i.wellFormed = true → exec i s = .next t →
    (∀ e, t.events = s.events ++ [e] →
      (∀ n, e = .onReceive n → (i = .feedLF ∨ ∃ text, encode i = .line text) ∧ s.svc = .none ∧ t.svc = .receive) ∧
      (e = .onRequest → (i = .feedLF ∨ ∃ text, encode i = .line text) ∧ s.svc = .none ∧ t.svc = .request) ∧
      (∀ st v, e = .reqDone st v →
        (i = .reqComplete ∨ ∃ a b, i = .cmdEnd a b ∧ st = .aborted) ∧ s.waitActive = true ∧ t.waitActive = false ∧
          t.result = v ∧ t.resultStatus = st)) ∧
    (i = .feedLF → t.events ≠ s.events → t.diag = s.diag)

/-- A host command is taken in every state, never blocks, and returns exactly one response word; with a status other than OK
it has changed nothing, but for ENDTX with a bad address and a refused growth in WRITE or REQFROM (R250). Nothing but a
command returns a response. -/
def Obligations.OneResponse : Prop :=
  ∀ (i : Instr) (s : State),
    (i.isCommand = true →
      ∃ t r, exec i s = .next t ∧ t.responses = s.responses ++ [r] ∧
        (r.status ≠ .ok →
          t = s.respond r.status r.value ∨
            (∃ a b, i = .cmdEndtx a b) ∧ (r.status = .invalidAddress ∨ r.status = .ownAddress) ∨
            (∃ a b, i = .cmdWrite a b ∨ i = .cmdReqfrom a b) ∧ r.status = .allocFail)) ∧
    (i.isCommand = false → ∀ t, exec i s = .next t → t.responses = s.responses)

/-- The diagnostic log is write-only: an instance that differs only in `DIAG_ENABLE` and in what its log holds does the same on
every other port and ends in the same registers (R344). RDREG is left out, since CONFIG shows the parameter itself (R48). -/
def Obligations.DiagInert : Prop :=
  ∀ (i : Instr) (s : State) (flag : Bool) (log : List Reason), (∀ a b, i ≠ .cmdRdreg a b) →
    let other : State := { s with cfg := { s.cfg with diagEnable := flag }, diag := log }
    (∀ t, exec i s = .next t →
      ∃ log', exec i other = .next { t with cfg := { t.cfg with diagEnable := flag }, diag := log' }) ∧
    (∀ f, exec i s = .fault f → exec i other = .fault f)

/-- The invariant holds right after reset, for every legal configuration. -/
def Obligations.ResetInv : Prop :=
  State.Inv State.reset ∧ ∀ cfg : Config, cfg.Legal → State.Inv (State.initial cfg)

/-- Every step keeps the invariant: the buffers sound and within their bounds (R38, R52, R63), the parser in one of R161's
phases, at most one frame and one transaction in progress (R27), a wait and a callback never together (R266). -/
def Obligations.StepKeepsInv : Prop :=
  ∀ s t : State, s.Inv → step s = .next t → t.Inv

/-- Nothing stops the block: in every state with the invariant the next step, whatever it is, runs (R340). -/
def Obligations.NothingStops : Prop :=
  ∀ s : State, s.Inv → Runs (step s)

/-- Every step keeps both storages in canonical form, from any state whatever. -/
def Obligations.StorageCanonical : Prop :=
  ∀ s t : State, s.inbound.storage.wf → s.outbound.storage.wf → step s = .next t →
    t.inbound.storage.wf ∧ t.outbound.storage.wf

/-- A slave-only instance never waits and holds Idle or Locked only; REQFROM and BEGINM are Unsupported, Tick and ReqComplete
do nothing, and no response line, with data or without (the NACK), leaves a trace in `inbound`, the events or the transmit side (R363). -/
def Obligations.SlaveOnly : Prop :=
  ∀ s : State, s.cfg.roleMaster = false → s.Inv →
    s.waitActive = false ∧ (s.outboundState = .idle ∨ s.outboundState = .locked) ∧
    (∀ a b, exec (.cmdReqfrom a b) s = .next (s.respond .unsupported 0)) ∧
    (∀ a b, exec (.cmdBeginm a b) s = .next (s.respond .unsupported 0)) ∧
    exec .tick s = .next s ∧ exec .reqComplete s = .next s ∧
    (∀ i addr data sum, i = .i2ca addr data sum ∨ i = .nack addr sum → ParserReady s →
      ∃ t, exec i s = .next t ∧ t.inbound.bytes = s.inbound.bytes ∧ t.events = s.events ∧
        t.tx = s.tx ∧ t.outboundState = s.outboundState ∧ t.commandKind = .none)

/-! ## Host commands -/

/-- NOP and every reserved opcode change nothing and answer OK and IllegalCommand with value 0 (R254, R265); SETTO sets
`TIMEOUT` to its two operand bytes, the first more significant, and nothing else (R263). -/
def Obligations.PlainCommands : Prop :=
  ∀ (op a b : Byte) (s : State),
    exec (.cmdNop a b) s = .next { s with responses := s.responses ++ [⟨.ok, 0#16⟩] } ∧
    exec (.cmdReserved op a b) s = .next { s with responses := s.responses ++ [⟨.illegalCommand, 0#16⟩] } ∧
    exec (.cmdSetto a b) s = .next { s with
      timeout := BitVec.ofNat 16 (256 * a.toNat + b.toNat)
      responses := s.responses ++ [⟨.ok, 0#16⟩] }

/-- BEGIN and BEGINM open a session with a bus address or without one; the checks come in the rule's order and a refused
command changes nothing (R251, R252). -/
def Obligations.SessionOpened : Prop :=
  ∀ (a b : Byte) (s : State),
    (s.ownAddress ≠ .uninitialized →
      exec (.cmdBegin a b) s = .next { s with responses := s.responses ++ [⟨.alreadyBegun, 0#16⟩] }) ∧
    (s.ownAddress = .uninitialized → 0x7F < a.toNat →
      exec (.cmdBegin a b) s = .next { s with responses := s.responses ++ [⟨.invalidAddress, 0#16⟩] }) ∧
    (s.ownAddress = .uninitialized → a.toNat ≤ 0x7F →
      exec (.cmdBegin a b) s = .next { s with
        ownAddress := .bus (BitVec.ofNat 7 a.toNat)
        responses := s.responses ++ [⟨.ok, 0#16⟩] }) ∧
    (s.cfg.roleMaster = false →
      exec (.cmdBeginm a b) s = .next { s with responses := s.responses ++ [⟨.unsupported, 0#16⟩] }) ∧
    (s.cfg.roleMaster = true → s.ownAddress ≠ .uninitialized →
      exec (.cmdBeginm a b) s = .next { s with responses := s.responses ++ [⟨.alreadyBegun, 0#16⟩] }) ∧
    (s.cfg.roleMaster = true → s.ownAddress = .uninitialized →
      exec (.cmdBeginm a b) s = .next { s with
        ownAddress := .masterOnly
        responses := s.responses ++ [⟨.ok, 0#16⟩] })

/-- END, in any state, leaves the reset state but for `TIMEOUT`, what the port sequences and the environment hold, and, where
it ends a wait, `RESULTSTATUS` Aborted and the ReqDone event; both buffers are given back (R51, R253, R348, R399). That the
scratch cells stay is log 18's reading. The reset input puts every register at its reset value and empties the TX,
event, diagnostic and allocator sequences, appending nothing (R390, R391); that the response sequence is emptied with them is
log 14's choice, that the environment keeps what it holds ready is log 16's reading, that the scratch cells read 0 then is
log 1's choice. -/
def Obligations.EndAndReset : Prop :=
  (∀ (a b : Byte) (s : State),
    exec (.cmdEnd a b) s = .next { State.initial s.cfg with
      timeout := s.timeout
      resultStatus := if s.waitActive then .aborted else .ok
      responses := s.responses ++ [⟨.ok, 0#16⟩]
      events := s.events ++ if s.waitActive then [.reqDone .aborted 0#16] else []
      allocReqs := s.allocReqs ++ releaseRequest .inbound s ++ releaseRequest .outbound s
      tx := s.tx
      diag := s.diag
      scratch := s.scratch
      rx := s.rx
      cmds := s.cmds
      agenda := s.agenda
      grants := s.grants
      draws := s.draws }) ∧
  (∀ (s : State) (ag : List Agent), s.agenda = .reset :: ag →
    step s = .next { State.initial s.cfg with
      rx := s.rx, cmds := s.cmds, agenda := ag, grants := s.grants, draws := s.draws })

/-- BEGINTX opens a transmission to any address byte, unless no session is open or a transaction is in progress (R255). -/
def Obligations.TransmissionOpened : Prop :=
  ∀ (a b : Byte) (s : State),
    (s.ownAddress = .uninitialized →
      exec (.cmdBegintx a b) s = .next { s with responses := s.responses ++ [⟨.notBegun, 0#16⟩] }) ∧
    (s.ownAddress ≠ .uninitialized → s.outboundState ≠ .idle ∨ s.waitActive = true ∨ s.svc ≠ .none →
      exec (.cmdBegintx a b) s = .next { s with responses := s.responses ++ [⟨.busy, 0#16⟩] }) ∧
    (s.ownAddress ≠ .uninitialized → s.outboundState = .idle → s.waitActive = false → s.svc = .none →
      exec (.cmdBegintx a b) s = .next { s with
        txAddr := a
        outboundState := .locked
        responses := s.responses ++ [⟨.ok, 0#16⟩] })

/-- WRITE appends its byte to `outbound` while a transmission is open or a request is served, up to `MAX_LEN - 1` bytes. A
byte that fits asks the allocator nothing; one that does not asks once, for `max(RoundUp(length + 1), MIN_FLOOR)`, and that is
the capacity then; a refused growth costs every byte written (R256, R131, R132). The answers' list is log 2's. -/
def Obligations.ByteWritten : Prop :=
  ∀ (a b : Byte) (s : State),
    (s.outboundState ≠ .locked → s.svc ≠ .request →
      exec (.cmdWrite a b) s = .next { s with responses := s.responses ++ [⟨.notWritable, 0#16⟩] }) ∧
    (s.outboundState = .locked ∨ s.svc = .request → s.cfg.maxLen - 1 ≤ s.outbound.length →
      exec (.cmdWrite a b) s = .next { s with responses := s.responses ++ [⟨.full, 0#16⟩] }) ∧
    (s.outboundState = .locked ∨ s.svc = .request → s.outbound.length < s.cfg.maxLen - 1 →
      s.cfg.Legal → s.outbound.Sound s.cfg → GrantsFor 1 s →
      ∃ t, exec (.cmdWrite a b) s = .next t ∧
        t.outbound.bytes = s.outbound.bytes ++ [a] ∧ t.outbound.length = s.outbound.length + 1 ∧
        t.outbound.position = s.outbound.position ∧ t.outbound.capacity = appendedCap s.cfg s.outbound ∧
        t = { s with
          outbound := t.outbound
          responses := s.responses ++ [⟨.ok, 1#16⟩]
          allocReqs := s.allocReqs ++ appendRequest .outbound s.cfg s.outbound
          grants := appendGrants s.outbound s }) ∧
    (∀ gs, s.outboundState = .locked ∨ s.svc = .request → s.outbound.length < s.cfg.maxLen - 1 →
      s.outbound.capacity = s.outbound.length → s.cfg.allocCanFail = true → s.grants = false :: gs →
      exec (.cmdWrite a b) s = .next { s with
        outbound := Buffer.cleared 0
        allocReqs := s.allocReqs ++ [⟨.outbound, growCap s.cfg (s.outbound.length + 1)⟩] ++ releaseRequest .outbound s
        grants := gs
        responses := s.responses ++ [⟨.allocFail, 0#16⟩] })

/-- ENDTX sends the transmission as one I2CT line with the bytes in the order written, or, with a bad target, sends nothing;
either way the buffer is cleared and the block is Idle (R257, R234). -/
def Obligations.TransmissionEnded : Prop :=
  ∀ (a b : Byte) (s : State),
    (s.outboundState ≠ .locked →
      exec (.cmdEndtx a b) s = .next { s with responses := s.responses ++ [⟨.endWithoutBegin, 0#16⟩] }) ∧
    (s.outboundState = .locked →
      exec (.cmdEndtx a b) s = .next { s with
        tx := s.tx ++
          if s.txAddr.toNat ≤ 0x7F ∧ s.txAddr ≠ s.ownAddress.code then
            sentLine .i2ct (s.txAddr :: s.outbound.bytes) (lineSum s.cfg (s.txAddr :: s.outbound.bytes))
          else []
        outbound := Buffer.cleared (clearedCap s.cfg s.outbound)
        allocReqs := s.allocReqs ++ clearRequest .outbound s
        outboundState := .idle
        responses := s.responses ++
          [⟨if 0x7F < s.txAddr.toNat then .invalidAddress
            else if s.txAddr = s.ownAddress.code then .ownAddress else .ok, 0#16⟩] })

/-- The checks of REQFROM, first failing first; a refused command changes nothing (R258). -/
def Obligations.RequestRefused : Prop :=
  ∀ (a n : Byte) (s : State),
    let answer := fun st : Status => exec (.cmdReqfrom a n) s = .next { s with responses := s.responses ++ [⟨st, 0#16⟩] }
    let busy := s.outboundState ≠ .idle ∨ s.waitActive = true ∨ s.svc ≠ .none ∨ s.inboundActive = true
    (s.cfg.roleMaster = false → answer .unsupported) ∧
    (s.cfg.roleMaster = true → s.ownAddress = .uninitialized → answer .notBegun) ∧
    (s.cfg.roleMaster = true → s.ownAddress ≠ .uninitialized →
      (busy → answer .busy) ∧
      (¬busy → n = 0#8 → answer .invalidLength) ∧
      (¬busy → n ≠ 0#8 → 0x7F < a.toNat → answer .invalidAddress) ∧
      (¬busy → n ≠ 0#8 → a.toNat ≤ 0x7F → a = s.ownAddress.code → answer .ownAddress))

/-- An accepted REQFROM sends the request line, leaves the asked address alone in `inbound`, and begins the wait of `TIMEOUT`
ticks; the allocator is asked for the trim of what `inbound` held and for the one growth an empty capacity needs, and for
nothing where the byte fits (R132); a refused growth sends nothing and begins no wait (R258, R235, R140). The answers' list is
log 2's. -/
def Obligations.RequestSent : Prop :=
  ∀ (a n : Byte) (s : State), s.cfg.roleMaster = true → s.ownAddress ≠ .uninitialized → s.outboundState = .idle →
    s.waitActive = false → s.svc = .none → s.inboundActive = false → n ≠ 0#8 → a.toNat ≤ 0x7F →
    a ≠ s.ownAddress.code → s.cfg.Legal → s.inbound.Sound s.cfg →
    (GrantsFor 1 s →
      ∃ t, exec (.cmdReqfrom a n) s = .next t ∧ t.inbound.bytes = [a] ∧ t.inbound.length = 1 ∧ t.inbound.position = 0 ∧
        t.inbound.capacity = appendedCap s.cfg (resetBuffer s.cfg s.inbound) ∧
        t = { s with
          inbound := t.inbound
          outboundState := .fillingWait
          reqAddr := a
          reqCount := n
          waitActive := true
          waitTimer := s.timeout
          tx := s.tx ++ sentLine .i2cr [a, n] (lineSum s.cfg [a, n])
          responses := s.responses ++ [⟨.ok, 0#16⟩]
          allocReqs := s.allocReqs ++ resetRequest s ++ appendRequest .inbound s.cfg (resetBuffer s.cfg s.inbound)
          grants := appendGrants (resetBuffer s.cfg s.inbound) s }) ∧
    (∀ gs, s.inbound.capacity = 0 → s.cfg.allocCanFail = true → s.grants = false :: gs →
      exec (.cmdReqfrom a n) s = .next { s with
        allocReqs := s.allocReqs ++ [⟨.inbound, growCap s.cfg 1⟩]
        grants := gs
        responses := s.responses ++ [⟨.allocFail, 0#16⟩] })

/-- READ gives the byte at the cursor and moves past it, PEEK gives it without moving, both answer NotAvailable with 0xFFFF
behind the last byte; AVAIL gives how many bytes are left; none touches anything else (R260, R261, R262). -/
def Obligations.ReadPeekAvail : Prop :=
  ∀ (a b : Byte) (s : State),
    (∀ v, s.inbound.read s.inbound.position = some v →
      exec (.cmdRead a b) s = .next { s with
        inbound := { s.inbound with position := s.inbound.position + 1 }
        responses := s.responses ++ [⟨.ok, BitVec.ofNat 16 v.toNat⟩] } ∧
      exec (.cmdPeek a b) s = .next { s with responses := s.responses ++ [⟨.ok, BitVec.ofNat 16 v.toNat⟩] }) ∧
    (s.inbound.length ≤ s.inbound.position →
      exec (.cmdRead a b) s = .next { s with responses := s.responses ++ [⟨.notAvailable, 0xFFFF#16⟩] } ∧
      exec (.cmdPeek a b) s = .next { s with responses := s.responses ++ [⟨.notAvailable, 0xFFFF#16⟩] }) ∧
    exec (.cmdAvail a b) s = .next { s with
      responses := s.responses ++ [⟨.ok, BitVec.ofNat 16 (s.inbound.length - s.inbound.position)⟩] }

/-- `n` READ commands in a row return the next `n` unread bytes of `inbound` in index order (R66, R68, R71(b), R133). -/
def Obligations.ReadsInOrder : Prop :=
  ∀ (n : Nat) (s : State), s.inbound.Sound s.cfg → s.inbound.position + n ≤ s.inbound.length →
    Sys2Proof.core.run n
        { s with agenda := List.replicate n .host ++ s.agenda, cmds := List.replicate n 0x200000#24 ++ s.cmds } =
      .next { s with
        inbound := { s.inbound with position := s.inbound.position + n }
        responses := s.responses ++
          (((s.inbound.bytes.drop s.inbound.position).take n).map fun v => ⟨.ok, BitVec.ofNat 16 v.toNat⟩) }

/-- CBDONE outside a callback is NoCallback; it ends a Receive window by clearing `inbound`; it ends a Request window by
sending the bytes written, padded with 0xFF to the length asked or to `MAX_LEN - 1`, from the block's own address, and
clears both buffers; a refused growth of the padding sends the address alone (R259, R236, R211, R212, R352). The refusal is
the allocator's next answer (log 2). -/
def Obligations.CallbackDone : Prop :=
  ∀ (a b : Byte) (s : State),
    (s.svc = .none → exec (.cmdCbdone a b) s = .next { s with responses := s.responses ++ [⟨.noCallback, 0#16⟩] }) ∧
    (s.svc = .receive →
      exec (.cmdCbdone a b) s = .next { s with
        inbound := Buffer.cleared (clearedCap s.cfg s.inbound)
        allocReqs := s.allocReqs ++ clearRequest .inbound s
        svc := .none
        responses := s.responses ++ [⟨.ok, 0#16⟩] }) ∧
    (s.svc = .request → s.cfg.Legal → s.outbound.Sound s.cfg → GrantsFor s.svcLen.toNat s →
      let data := s.outbound.bytes ++
        List.replicate (min s.svcLen.toNat (s.cfg.maxLen - 1) - s.outbound.length) 0xFF#8
      ∃ t, exec (.cmdCbdone a b) s = .next t ∧ t.outbound.length = 0 ∧ t.outbound.position = 0 ∧
        t = { s with
          tx := s.tx ++ sentLine .i2ca (s.ownAddress.code :: data) (lineSum s.cfg (s.ownAddress.code :: data))
          outbound := t.outbound
          inbound := Buffer.cleared (clearedCap s.cfg s.inbound)
          svc := .none
          responses := s.responses ++ [⟨.ok, 0#16⟩]
          allocReqs := t.allocReqs
          grants := t.grants
          draws := t.draws }) ∧
    (∀ gs, s.svc = .request → s.outbound.capacity = s.outbound.length → s.outbound.length < s.svcLen.toNat →
      s.outbound.length < s.cfg.maxLen - 1 → s.cfg.allocCanFail = true → s.grants = false :: gs →
      exec (.cmdCbdone a b) s = .next { s with
        tx := s.tx ++ sentLine .i2ca [s.ownAddress.code] (lineSum s.cfg [s.ownAddress.code])
        outbound := Buffer.cleared 0
        inbound := Buffer.cleared (clearedCap s.cfg s.inbound)
        svc := .none
        responses := s.responses ++ [⟨.ok, 0#16⟩]
        allocReqs := s.allocReqs ++ [⟨.outbound, growCap s.cfg (s.outbound.length + 1)⟩] ++ releaseRequest .outbound s ++
          clearRequest .inbound s
        grants := gs })

/-- RDREG gives the register of that number, zero-extended, and BadRegister above 23; it changes nothing (R46, R47, R48,
R264). The codes of `ownAddress`, `commandKind`, `outboundState`, `svc` and `RESULTSTATUS` are written out as the rules number
them (R21, R22, R23, R35, R36 with R111). -/
def Obligations.RegisterMap : Prop :=
  ∀ (b : Byte) (s : State),
    let shows := fun (r : Nat) (n : Nat) =>
      exec (.cmdRdreg (BitVec.ofNat 8 r) b) s = .next { s with responses := s.responses ++ [⟨.ok, BitVec.ofNat 16 n⟩] }
    (s.ownAddress = .uninitialized → shows 0 0xFF) ∧ (s.ownAddress = .masterOnly → shows 0 0xFE) ∧
    (∀ a, s.ownAddress = .bus a → shows 0 a.toNat) ∧
    (∀ k ∈ [(CommandKind.none, 0), (.discard, 1), (.masterTransmit, 2), (.masterRequest, 3), (.slaveResponse, 4),
        (.sendDiscarded, 5)],
      ∀ o ∈ [(OutboundState.idle, 0), (.locked, 1), (.fillingWait, 2), (.filling, 3), (.filled, 4)],
      ∀ v ∈ [(Svc.none, 0), (.receive, 1), (.request, 2)],
      s.commandKind = k.1 → s.outboundState = o.1 → s.svc = v.1 →
      shows 1 (k.2 + 8 * o.2 + 64 * s.inboundActive.toNat + 128 * s.waitActive.toNat + 256 * v.2 + 1024 * s.inCrc.toNat +
        2048 * s.crcDigits.val)) ∧
    shows 2 s.timeout.toNat ∧ shows 3 s.waitTimer.toNat ∧
    shows 4 s.inbound.length ∧ shows 5 s.inbound.position ∧ shows 6 s.inbound.capacity ∧
    shows 7 s.outbound.length ∧ shows 8 s.outbound.position ∧ shows 9 s.outbound.capacity ∧
    shows 10 s.result.toNat ∧
    (s.resultStatus = .ok → shows 11 0x00) ∧ (s.resultStatus = .timeout → shows 11 0x0E) ∧
    (s.resultStatus = .aborted → shows 11 0x0F) ∧
    shows 12 s.txAddr.toNat ∧ shows 13 s.reqAddr.toNat ∧ shows 14 s.reqCount.toNat ∧ shows 15 s.svcLen.toNat ∧
    shows 16 s.crcAcc.toNat ∧ shows 17 s.crcRx.toNat ∧ shows 18 s.frameBytes.toNat ∧ shows 19 s.scratchLen.val ∧
    shows 20 (s.cfg.roleMaster.toNat + 2 * s.cfg.crcEnable.toNat + 4 * s.cfg.allocCanFail.toNat +
      8 * s.cfg.diagEnable.toNat) ∧
    shows 21 s.cfg.maxLen ∧ shows 22 s.cfg.blockSize ∧ shows 23 s.cfg.minFloor ∧
    (∀ r : Byte, 23 < r.toNat →
      exec (.cmdRdreg r b) s = .next { s with responses := s.responses ++ [⟨.badRegister, 0#16⟩] })

/-! ## The wait -/

/-- Tick counts the deadline down during a wait and changes nothing else: `k` ticks in a row bring the timer down by `k`,
stopping at 0 (R302, R34). An accepted REQFROM loads the timer with `TIMEOUT` (R34, R258), and the wait lasts `TIMEOUT` ticks at
least (R302): whatever operations follow, as long as no ReqDone has ended the wait, the timer stands at `TIMEOUT` less the
ticks among them, and ReqComplete can time out only if there were at least `TIMEOUT` of those. -/
def Obligations.WaitCounted : Prop :=
  (∀ s : State,
    (s.waitActive = true → s.waitTimer ≠ 0#16 →
      exec .tick s = .next { s with waitTimer := BitVec.ofNat 16 (s.waitTimer.toNat - 1) }) ∧
    (s.waitActive = false ∨ s.waitTimer = 0#16 → exec .tick s = .next s)) ∧
  (∀ (k : Nat) (s : State), s.waitActive = true →
    Sys2Proof.core.run k { s with agenda := List.replicate k .tick ++ s.agenda } =
      .next { s with waitTimer := BitVec.ofNat 16 (s.waitTimer.toNat - k) }) ∧
  (∀ (a n : Byte) (s t : State), exec (.cmdReqfrom a n) s = .next t → t.responses = s.responses ++ [⟨.ok, 0#16⟩] →
    t.waitActive = true ∧ t.waitTimer = s.timeout ∧
    ∀ (ops : List Instr) (u : State), s.Inv → execAll ops t = .next u →
      (∀ st v, .reqDone st v ∉ u.events.drop t.events.length) →
      u.waitActive = true ∧ u.waitTimer.toNat = s.timeout.toNat - ops.count .tick ∧
      ∀ w v, exec .reqComplete u = .next w → w.events = u.events ++ [.reqDone .timeout v] →
        s.timeout.toNat ≤ ops.count .tick)

/-- ReqComplete delivers a complete response from the address asked, even past the deadline, and otherwise ends the wait in
Timeout with `inbound` cleared and the rest of a half-received response line thrown away; one ReqDone event either way
(R304, R347). -/
def Obligations.RequestCompleted : Prop :=
  ∀ s : State,
    (s.waitActive = true → s.outboundState = .filled → s.inbound.read 0 = some s.reqAddr →
      exec .reqComplete s = .next { s with
        inbound := { s.inbound with position := 1 }
        result := BitVec.ofNat 16 s.reqCount.toNat
        resultStatus := .ok
        outboundState := .idle
        waitActive := false
        events := s.events ++ [.reqDone .ok (BitVec.ofNat 16 s.reqCount.toNat)] }) ∧
    (s.waitActive = true → s.outboundState = .filled ∨ s.waitTimer = 0#16 →
      ¬(s.outboundState = .filled ∧ s.inbound.read 0 = some s.reqAddr) →
      exec .reqComplete s = .next { s with
        inbound := Buffer.cleared (clearedCap s.cfg s.inbound)
        allocReqs := s.allocReqs ++ clearRequest .inbound s
        result := 0#16
        resultStatus := .timeout
        outboundState := .idle
        waitActive := false
        events := s.events ++ [.reqDone .timeout 0#16]
        diag := s.diag ++ if s.commandKind = .slaveResponse ∧ s.cfg.diagEnable = true then [.timeoutAbort] else []
        commandKind := if s.commandKind = .slaveResponse then .discard else s.commandKind
        inboundActive := if s.commandKind = .slaveResponse then false else s.inboundActive
        scratchLen := if s.commandKind = .slaveResponse then 0 else s.scratchLen
        inCrc := if s.commandKind = .slaveResponse then false else s.inCrc
        crcDigits := if s.commandKind = .slaveResponse then 0 else s.crcDigits })

/-- Once enabled, ReqComplete stays enabled under every operation but itself and END (R303). While it is not enabled the
engine's turn changes nothing: log 9's reading. -/
def Obligations.CompletionEnabled : Prop :=
  (∀ (i : Instr) (s t : State), s.waitActive = true → s.outboundState = .filled ∨ s.waitTimer = 0#16 →
    i ≠ .reqComplete → (∀ a b, i ≠ .cmdEnd a b) → exec i s = .next t →
    t.waitActive = true ∧ (t.outboundState = .filled ∨ t.waitTimer = 0#16)) ∧
  (∀ s : State, s.waitActive = false ∨ (s.outboundState ≠ .filled ∧ s.waitTimer ≠ 0#16) → exec .reqComplete s = .next s)

/-! ## The checksum -/

/-- The reference values of the default checksum (R326). -/
def Obligations.ChecksumReference : Prop :=
  let sum := frameSum Config.default
  sum [0x31#8, 0x32#8, 0x33#8, 0x34#8, 0x35#8, 0x36#8, 0x37#8, 0x38#8, 0x39#8] = 0x4B37#16 ∧
  sum [] = 0xFFFF#16 ∧ sum [0x00#8] = 0x40BF#16 ∧ sum [0xFF#8] = 0x00FF#16 ∧ sum [0x10#8] = 0x8CBE#16 ∧
  sum [0x21#8] = 0x587F#16 ∧ sum [0x7F#8] = 0xA0FE#16 ∧ sum [0x21#8, 0x04#8] = 0x2318#16 ∧
  sum [0x10#8, 0x02#8] = 0xB18D#16 ∧ sum [0x21#8, 0x01#8, 0x02#8] = 0x9BA1#16 ∧
  sum [0x20#8, 0x01#8, 0x02#8, 0x03#8] = 0x451B#16 ∧
  sum [0x21#8, 0xDE#8, 0xAD#8, 0xBE#8, 0xEF#8] = 0xE203#16 ∧
  sum [0x21#8, 0xAA#8, 0xBB#8, 0xCC#8, 0xDD#8] = 0xA35C#16 ∧
  sum [0x21#8, 0xAA#8, 0xBB#8, 0xFF#8, 0xFF#8] = 0x4AC8#16

/-! ## The words on the ports -/

/-- What stands on the command and the event port, as numbers: a response is its status code above the 16-bit value (R110), an
event its code, its status code and its value (R112); the status codes, the Discard reasons and the buffer numbers are written
out as the rules' tables give them (R111, R113, R114). -/
def Obligations.PortWords : Prop :=
  (∀ c ∈ [(Status.ok, 0x00), (.invalidAddress, 0x01), (.ownAddress, 0x02), (.endWithoutBegin, 0x03), (.busy, 0x04),
      (.notBegun, 0x05), (.alreadyBegun, 0x06), (.invalidLength, 0x07), (.notAvailable, 0x08), (.notWritable, 0x09),
      (.full, 0x0A), (.allocFail, 0x0B), (.noCallback, 0x0C), (.unsupported, 0x0D), (.timeout, 0x0E), (.aborted, 0x0F),
      (.illegalCommand, 0x10), (.badRegister, 0x11)],
    ∀ r : Response, r.status = c.1 → r.word.toNat = c.2 * 0x10000 + r.value.toNat) ∧
  (∀ n, (Event.onReceive n).word.toNat = 0x01000000 + n.toNat) ∧
  Event.onRequest.word.toNat = 0x02000000 ∧
  (∀ c ∈ [(WaitStatus.ok, 0x00), (.timeout, 0x0E), (.aborted, 0x0F)],
    ∀ v, (Event.reqDone c.1 v).word.toNat = 0x03000000 + c.2 * 0x10000 + v.toNat) ∧
  (∀ c ∈ [(Reason.badStart, 1), (.badKeyword, 2), (.badChar, 3), (.badHex, 4), (.wrongAddress, 5), (.busy, 6), (.overflow, 7),
      (.allocFail, 8), (.tooLong, 9), (.tooShort, 10), (.crcSyntax, 11), (.crcMismatch, 12), (.crcMissing, 13),
      (.unexpectedResponse, 14), (.zeroCount, 15), (.truncatedKeyword, 16), (.timeoutAbort, 17)],
    c.1.code.toNat = c.2) ∧
  BufId.inbound.code.toNat = 0 ∧ BufId.outbound.code.toNat = 1
end

