-- ==== Sys2Proof/Laws/Encoding.lean ====
section
/-! SUPPORT. Hex digits, pairs, suffixes and command words: what a written value reads back as, and how the characters the
line writer appends relate to the encoder's. -/

namespace Sys2Proof.Machine

/-! ### Hex digits -/

@[simp] theorem hexVal?_hexDigit (n : BitVec 4) : hexVal? (hexDigit n) = some n := by
  revert n; decide

@[simp] theorem isSep_hexDigit (n : BitVec 4) : isSep (hexDigit n) = false := by
  revert n; decide

theorem hexDigit_ne_hash (n : BitVec 4) : hexDigit n ≠ charHash := by
  revert n; decide

theorem hexDigit_ne_lf (n : BitVec 4) : hexDigit n ≠ charLF := by
  revert n; decide

theorem hexDigit_ne_cr (n : BitVec 4) : hexDigit n ≠ charCR := by
  revert n; decide

/-- A separator is no hex digit. -/
theorem hexVal?_of_isSep {c : Byte} (h : isSep c = true) : hexVal? c = none := by
  revert c; decide

/-- The two halves of a byte, paired again, are the byte. -/
@[simp] theorem pairValue_halves (v : Byte) : pairValue (v.extractLsb' 4 4) (v.extractLsb' 0 4) = v := by
  revert v; decide

/-- A pair's value as a number (R169). -/
theorem pairValue_toNat (hi lo : BitVec 4) : (pairValue hi lo).toNat = 16 * hi.toNat + lo.toNat := by
  revert hi lo; decide

/-! ### The integrity value -/

/-- One more digit of an integrity value, as a number: the shift drops what no longer fits (R13(3)). -/
theorem shiftDigit_toNat (v : Half) (d : BitVec 4) : (shiftDigit v d).toNat = (v.toNat * 16 + d.toNat) % 65536 := by
  have := d.isLt
  have := v.isLt
  simp only [shiftDigit, BitVec.toNat_add, BitVec.toNat_mul, BitVec.toNat_setWidth, BitVec.toNat_ofNat]
  omega

/-- A digit of a 16-bit value as a number. -/
theorem half_digit_toNat (w : Half) (i : Nat) : (w.extractLsb' i 4).toNat = w.toNat / 2 ^ i % 16 := by
  simp [BitVec.extractLsb'_toNat, Nat.shiftRight_eq_div_pow]

/-- The four digits of a 16-bit value, shifted in from 0, are the value (R65, R117). -/
theorem shiftDigit_digits (w : Half) :
    shiftDigit (shiftDigit (shiftDigit (shiftDigit 0#16 (w.extractLsb' 12 4)) (w.extractLsb' 8 4)) (w.extractLsb' 4 4))
      (w.extractLsb' 0 4) = w := by
  have := w.isLt
  apply BitVec.eq_of_toNat_eq
  simp only [shiftDigit_toNat, half_digit_toNat, BitVec.toNat_ofNat]
  omega

/-- The characters of `Hex4` are the digits of the value, most significant first. -/
theorem hex4_eq (w : Half) :
    hex4 w = [hexDigit (w.extractLsb' 12 4), hexDigit (w.extractLsb' 8 4), hexDigit (w.extractLsb' 4 4),
      hexDigit (w.extractLsb' 0 4)] := by
  have e : ∀ (a b i : Nat), i + 4 ≤ 8 → (w.extractLsb' a 8).extractLsb' i 4 = w.extractLsb' (a + i) 4 := by
    intro a _ i h
    ext j hj
    simp only [BitVec.getElem_extractLsb', BitVec.getLsbD_extractLsb']
    have : i + j < 8 := by omega
    simp [this, Nat.add_assoc]
  simp only [hex4, hex2, List.cons_append, List.nil_append]
  rw [e 8 0 4 (by omega), e 8 0 0 (by omega), e 0 0 4 (by omega), e 0 0 0 (by omega)]

/-! ### Command words -/

/-- A concatenation as a number: the left part stands above the bits of the right one. -/
theorem append_toNat {m n : Nat} (x : BitVec m) (y : BitVec n) : (x ++ y).toNat = x.toNat * 2 ^ n + y.toNat := by
  rw [BitVec.toNat_append, ← Nat.shiftLeft_add_eq_or_of_lt y.isLt, Nat.shiftLeft_eq]

/-- The 16-bit operand `{A, B}` as a number (R65). -/
theorem operandAB_toNat (a b : Byte) : (operandAB a b).toNat = a.toNat * 256 + b.toNat := append_toNat a b

/-- A command word as a number: the opcode in bits 23 to 16, A in bits 15 to 8, B in bits 7 to 0 (R107). -/
theorem commandWord_toNat (op a b : Byte) :
    (commandWord op a b).toNat = (op.toNat * 256 + a.toNat) * 256 + b.toNat := by
  simp only [commandWord, append_toNat, Nat.reducePow]

@[simp] theorem cmdOp_commandWord (op a b : Byte) : cmdOp (commandWord op a b) = op := by
  have := op.isLt; have := a.isLt; have := b.isLt
  apply BitVec.eq_of_toNat_eq
  simp only [cmdOp, BitVec.extractLsb'_toNat, commandWord_toNat, Nat.shiftRight_eq_div_pow]
  omega

@[simp] theorem cmdA_commandWord (op a b : Byte) : cmdA (commandWord op a b) = a := by
  have := op.isLt; have := a.isLt; have := b.isLt
  apply BitVec.eq_of_toNat_eq
  simp only [cmdA, BitVec.extractLsb'_toNat, commandWord_toNat, Nat.shiftRight_eq_div_pow]
  omega

@[simp] theorem cmdB_commandWord (op a b : Byte) : cmdB (commandWord op a b) = b := by
  have := op.isLt; have := a.isLt; have := b.isLt
  apply BitVec.eq_of_toNat_eq
  simp only [cmdB, BitVec.extractLsb'_toNat, commandWord_toNat, Nat.shiftRight_eq_div_pow]
  omega

/-- A command word is its three fields (R107). -/
theorem commandWord_fields (w : CmdWord) : commandWord (cmdOp w) (cmdA w) (cmdB w) = w := by
  have := w.isLt
  apply BitVec.eq_of_toNat_eq
  simp only [commandWord_toNat, cmdOp, cmdA, cmdB, BitVec.extractLsb'_toNat, Nat.shiftRight_eq_div_pow]
  omega

/-! ### The line writer's characters -/

/-- The line writer's digits of one byte are the encoder's (R117, R230). -/
theorem frameByte_eq (v : Byte) : frameByte v = (hex2 v).map .tx := by
  revert v; decide

end Sys2Proof.Machine
end

