-- ==== Sys2Proof/Laws/State.lean ====
section
/-! SUPPORT. One lemma per field per named update of the state (Machine/Ops.lean), so that no proof unfolds a record update,
and what each update writes. -/

namespace Sys2Proof.Machine.State

/-! ### respond -/

@[simp] theorem respond_cfg (s : State) (st : Status) (v : Half) : (s.respond st v).cfg = s.cfg := rfl
@[simp] theorem respond_ownAddress (s : State) (st : Status) (v : Half) : (s.respond st v).ownAddress = s.ownAddress := rfl
@[simp] theorem respond_commandKind (s : State) (st : Status) (v : Half) : (s.respond st v).commandKind = s.commandKind := rfl
@[simp] theorem respond_outboundState (s : State) (st : Status) (v : Half) : (s.respond st v).outboundState = s.outboundState := rfl
@[simp] theorem respond_inboundActive (s : State) (st : Status) (v : Half) : (s.respond st v).inboundActive = s.inboundActive := rfl
@[simp] theorem respond_crcAcc (s : State) (st : Status) (v : Half) : (s.respond st v).crcAcc = s.crcAcc := rfl
@[simp] theorem respond_scratch (s : State) (st : Status) (v : Half) : (s.respond st v).scratch = s.scratch := rfl
@[simp] theorem respond_scratchLen (s : State) (st : Status) (v : Half) : (s.respond st v).scratchLen = s.scratchLen := rfl
@[simp] theorem respond_inCrc (s : State) (st : Status) (v : Half) : (s.respond st v).inCrc = s.inCrc := rfl
@[simp] theorem respond_crcDigits (s : State) (st : Status) (v : Half) : (s.respond st v).crcDigits = s.crcDigits := rfl
@[simp] theorem respond_crcRx (s : State) (st : Status) (v : Half) : (s.respond st v).crcRx = s.crcRx := rfl
@[simp] theorem respond_frameBytes (s : State) (st : Status) (v : Half) : (s.respond st v).frameBytes = s.frameBytes := rfl
@[simp] theorem respond_svcLen (s : State) (st : Status) (v : Half) : (s.respond st v).svcLen = s.svcLen := rfl
@[simp] theorem respond_txAddr (s : State) (st : Status) (v : Half) : (s.respond st v).txAddr = s.txAddr := rfl
@[simp] theorem respond_reqAddr (s : State) (st : Status) (v : Half) : (s.respond st v).reqAddr = s.reqAddr := rfl
@[simp] theorem respond_reqCount (s : State) (st : Status) (v : Half) : (s.respond st v).reqCount = s.reqCount := rfl
@[simp] theorem respond_waitActive (s : State) (st : Status) (v : Half) : (s.respond st v).waitActive = s.waitActive := rfl
@[simp] theorem respond_waitTimer (s : State) (st : Status) (v : Half) : (s.respond st v).waitTimer = s.waitTimer := rfl
@[simp] theorem respond_timeout (s : State) (st : Status) (v : Half) : (s.respond st v).timeout = s.timeout := rfl
@[simp] theorem respond_svc (s : State) (st : Status) (v : Half) : (s.respond st v).svc = s.svc := rfl
@[simp] theorem respond_result (s : State) (st : Status) (v : Half) : (s.respond st v).result = s.result := rfl
@[simp] theorem respond_resultStatus (s : State) (st : Status) (v : Half) : (s.respond st v).resultStatus = s.resultStatus := rfl
@[simp] theorem respond_inbound (s : State) (st : Status) (v : Half) : (s.respond st v).inbound = s.inbound := rfl
@[simp] theorem respond_outbound (s : State) (st : Status) (v : Half) : (s.respond st v).outbound = s.outbound := rfl
@[simp] theorem respond_tx (s : State) (st : Status) (v : Half) : (s.respond st v).tx = s.tx := rfl
@[simp] theorem respond_events (s : State) (st : Status) (v : Half) : (s.respond st v).events = s.events := rfl
@[simp] theorem respond_allocReqs (s : State) (st : Status) (v : Half) : (s.respond st v).allocReqs = s.allocReqs := rfl
@[simp] theorem respond_diag (s : State) (st : Status) (v : Half) : (s.respond st v).diag = s.diag := rfl
@[simp] theorem respond_rx (s : State) (st : Status) (v : Half) : (s.respond st v).rx = s.rx := rfl
@[simp] theorem respond_cmds (s : State) (st : Status) (v : Half) : (s.respond st v).cmds = s.cmds := rfl
@[simp] theorem respond_agenda (s : State) (st : Status) (v : Half) : (s.respond st v).agenda = s.agenda := rfl
@[simp] theorem respond_grants (s : State) (st : Status) (v : Half) : (s.respond st v).grants = s.grants := rfl
@[simp] theorem respond_draws (s : State) (st : Status) (v : Half) : (s.respond st v).draws = s.draws := rfl
@[simp] theorem respond_responses (s : State) (st : Status) (v : Half) :
    (s.respond st v).responses = s.responses ++ [{ status := st, value := v }] := rfl

/-! ### raiseEvent -/

@[simp] theorem raiseEvent_cfg (s : State) (e : Event) : (s.raiseEvent e).cfg = s.cfg := rfl
@[simp] theorem raiseEvent_ownAddress (s : State) (e : Event) : (s.raiseEvent e).ownAddress = s.ownAddress := rfl
@[simp] theorem raiseEvent_commandKind (s : State) (e : Event) : (s.raiseEvent e).commandKind = s.commandKind := rfl
@[simp] theorem raiseEvent_outboundState (s : State) (e : Event) : (s.raiseEvent e).outboundState = s.outboundState := rfl
@[simp] theorem raiseEvent_inboundActive (s : State) (e : Event) : (s.raiseEvent e).inboundActive = s.inboundActive := rfl
@[simp] theorem raiseEvent_crcAcc (s : State) (e : Event) : (s.raiseEvent e).crcAcc = s.crcAcc := rfl
@[simp] theorem raiseEvent_scratch (s : State) (e : Event) : (s.raiseEvent e).scratch = s.scratch := rfl
@[simp] theorem raiseEvent_scratchLen (s : State) (e : Event) : (s.raiseEvent e).scratchLen = s.scratchLen := rfl
@[simp] theorem raiseEvent_inCrc (s : State) (e : Event) : (s.raiseEvent e).inCrc = s.inCrc := rfl
@[simp] theorem raiseEvent_crcDigits (s : State) (e : Event) : (s.raiseEvent e).crcDigits = s.crcDigits := rfl
@[simp] theorem raiseEvent_crcRx (s : State) (e : Event) : (s.raiseEvent e).crcRx = s.crcRx := rfl
@[simp] theorem raiseEvent_frameBytes (s : State) (e : Event) : (s.raiseEvent e).frameBytes = s.frameBytes := rfl
@[simp] theorem raiseEvent_svcLen (s : State) (e : Event) : (s.raiseEvent e).svcLen = s.svcLen := rfl
@[simp] theorem raiseEvent_txAddr (s : State) (e : Event) : (s.raiseEvent e).txAddr = s.txAddr := rfl
@[simp] theorem raiseEvent_reqAddr (s : State) (e : Event) : (s.raiseEvent e).reqAddr = s.reqAddr := rfl
@[simp] theorem raiseEvent_reqCount (s : State) (e : Event) : (s.raiseEvent e).reqCount = s.reqCount := rfl
@[simp] theorem raiseEvent_waitActive (s : State) (e : Event) : (s.raiseEvent e).waitActive = s.waitActive := rfl
@[simp] theorem raiseEvent_waitTimer (s : State) (e : Event) : (s.raiseEvent e).waitTimer = s.waitTimer := rfl
@[simp] theorem raiseEvent_timeout (s : State) (e : Event) : (s.raiseEvent e).timeout = s.timeout := rfl
@[simp] theorem raiseEvent_svc (s : State) (e : Event) : (s.raiseEvent e).svc = s.svc := rfl
@[simp] theorem raiseEvent_result (s : State) (e : Event) : (s.raiseEvent e).result = s.result := rfl
@[simp] theorem raiseEvent_resultStatus (s : State) (e : Event) : (s.raiseEvent e).resultStatus = s.resultStatus := rfl
@[simp] theorem raiseEvent_inbound (s : State) (e : Event) : (s.raiseEvent e).inbound = s.inbound := rfl
@[simp] theorem raiseEvent_outbound (s : State) (e : Event) : (s.raiseEvent e).outbound = s.outbound := rfl
@[simp] theorem raiseEvent_tx (s : State) (e : Event) : (s.raiseEvent e).tx = s.tx := rfl
@[simp] theorem raiseEvent_responses (s : State) (e : Event) : (s.raiseEvent e).responses = s.responses := rfl
@[simp] theorem raiseEvent_allocReqs (s : State) (e : Event) : (s.raiseEvent e).allocReqs = s.allocReqs := rfl
@[simp] theorem raiseEvent_diag (s : State) (e : Event) : (s.raiseEvent e).diag = s.diag := rfl
@[simp] theorem raiseEvent_rx (s : State) (e : Event) : (s.raiseEvent e).rx = s.rx := rfl
@[simp] theorem raiseEvent_cmds (s : State) (e : Event) : (s.raiseEvent e).cmds = s.cmds := rfl
@[simp] theorem raiseEvent_agenda (s : State) (e : Event) : (s.raiseEvent e).agenda = s.agenda := rfl
@[simp] theorem raiseEvent_grants (s : State) (e : Event) : (s.raiseEvent e).grants = s.grants := rfl
@[simp] theorem raiseEvent_draws (s : State) (e : Event) : (s.raiseEvent e).draws = s.draws := rfl
@[simp] theorem raiseEvent_events (s : State) (e : Event) : (s.raiseEvent e).events = s.events ++ [e] := rfl

/-! ### logAlloc -/

@[simp] theorem logAlloc_cfg (s : State) (id : BufId) (n : Nat) : (s.logAlloc id n).cfg = s.cfg := rfl
@[simp] theorem logAlloc_ownAddress (s : State) (id : BufId) (n : Nat) : (s.logAlloc id n).ownAddress = s.ownAddress := rfl
@[simp] theorem logAlloc_commandKind (s : State) (id : BufId) (n : Nat) : (s.logAlloc id n).commandKind = s.commandKind := rfl
@[simp] theorem logAlloc_outboundState (s : State) (id : BufId) (n : Nat) : (s.logAlloc id n).outboundState = s.outboundState := rfl
@[simp] theorem logAlloc_inboundActive (s : State) (id : BufId) (n : Nat) : (s.logAlloc id n).inboundActive = s.inboundActive := rfl
@[simp] theorem logAlloc_crcAcc (s : State) (id : BufId) (n : Nat) : (s.logAlloc id n).crcAcc = s.crcAcc := rfl
@[simp] theorem logAlloc_scratch (s : State) (id : BufId) (n : Nat) : (s.logAlloc id n).scratch = s.scratch := rfl
@[simp] theorem logAlloc_scratchLen (s : State) (id : BufId) (n : Nat) : (s.logAlloc id n).scratchLen = s.scratchLen := rfl
@[simp] theorem logAlloc_inCrc (s : State) (id : BufId) (n : Nat) : (s.logAlloc id n).inCrc = s.inCrc := rfl
@[simp] theorem logAlloc_crcDigits (s : State) (id : BufId) (n : Nat) : (s.logAlloc id n).crcDigits = s.crcDigits := rfl
@[simp] theorem logAlloc_crcRx (s : State) (id : BufId) (n : Nat) : (s.logAlloc id n).crcRx = s.crcRx := rfl
@[simp] theorem logAlloc_frameBytes (s : State) (id : BufId) (n : Nat) : (s.logAlloc id n).frameBytes = s.frameBytes := rfl
@[simp] theorem logAlloc_svcLen (s : State) (id : BufId) (n : Nat) : (s.logAlloc id n).svcLen = s.svcLen := rfl
@[simp] theorem logAlloc_txAddr (s : State) (id : BufId) (n : Nat) : (s.logAlloc id n).txAddr = s.txAddr := rfl
@[simp] theorem logAlloc_reqAddr (s : State) (id : BufId) (n : Nat) : (s.logAlloc id n).reqAddr = s.reqAddr := rfl
@[simp] theorem logAlloc_reqCount (s : State) (id : BufId) (n : Nat) : (s.logAlloc id n).reqCount = s.reqCount := rfl
@[simp] theorem logAlloc_waitActive (s : State) (id : BufId) (n : Nat) : (s.logAlloc id n).waitActive = s.waitActive := rfl
@[simp] theorem logAlloc_waitTimer (s : State) (id : BufId) (n : Nat) : (s.logAlloc id n).waitTimer = s.waitTimer := rfl
@[simp] theorem logAlloc_timeout (s : State) (id : BufId) (n : Nat) : (s.logAlloc id n).timeout = s.timeout := rfl
@[simp] theorem logAlloc_svc (s : State) (id : BufId) (n : Nat) : (s.logAlloc id n).svc = s.svc := rfl
@[simp] theorem logAlloc_result (s : State) (id : BufId) (n : Nat) : (s.logAlloc id n).result = s.result := rfl
@[simp] theorem logAlloc_resultStatus (s : State) (id : BufId) (n : Nat) : (s.logAlloc id n).resultStatus = s.resultStatus := rfl
@[simp] theorem logAlloc_inbound (s : State) (id : BufId) (n : Nat) : (s.logAlloc id n).inbound = s.inbound := rfl
@[simp] theorem logAlloc_outbound (s : State) (id : BufId) (n : Nat) : (s.logAlloc id n).outbound = s.outbound := rfl
@[simp] theorem logAlloc_tx (s : State) (id : BufId) (n : Nat) : (s.logAlloc id n).tx = s.tx := rfl
@[simp] theorem logAlloc_responses (s : State) (id : BufId) (n : Nat) : (s.logAlloc id n).responses = s.responses := rfl
@[simp] theorem logAlloc_events (s : State) (id : BufId) (n : Nat) : (s.logAlloc id n).events = s.events := rfl
@[simp] theorem logAlloc_diag (s : State) (id : BufId) (n : Nat) : (s.logAlloc id n).diag = s.diag := rfl
@[simp] theorem logAlloc_rx (s : State) (id : BufId) (n : Nat) : (s.logAlloc id n).rx = s.rx := rfl
@[simp] theorem logAlloc_cmds (s : State) (id : BufId) (n : Nat) : (s.logAlloc id n).cmds = s.cmds := rfl
@[simp] theorem logAlloc_agenda (s : State) (id : BufId) (n : Nat) : (s.logAlloc id n).agenda = s.agenda := rfl
@[simp] theorem logAlloc_grants (s : State) (id : BufId) (n : Nat) : (s.logAlloc id n).grants = s.grants := rfl
@[simp] theorem logAlloc_draws (s : State) (id : BufId) (n : Nat) : (s.logAlloc id n).draws = s.draws := rfl
@[simp] theorem logAlloc_allocReqs (s : State) (id : BufId) (n : Nat) :
    (s.logAlloc id n).allocReqs = s.allocReqs ++ [{ buf := id, newCap := n }] := rfl

/-! ### send -/

@[simp] theorem send_cfg (s : State) (items : List TxItem) : (s.send items).cfg = s.cfg := rfl
@[simp] theorem send_ownAddress (s : State) (items : List TxItem) : (s.send items).ownAddress = s.ownAddress := rfl
@[simp] theorem send_commandKind (s : State) (items : List TxItem) : (s.send items).commandKind = s.commandKind := rfl
@[simp] theorem send_outboundState (s : State) (items : List TxItem) : (s.send items).outboundState = s.outboundState := rfl
@[simp] theorem send_inboundActive (s : State) (items : List TxItem) : (s.send items).inboundActive = s.inboundActive := rfl
@[simp] theorem send_crcAcc (s : State) (items : List TxItem) : (s.send items).crcAcc = s.crcAcc := rfl
@[simp] theorem send_scratch (s : State) (items : List TxItem) : (s.send items).scratch = s.scratch := rfl
@[simp] theorem send_scratchLen (s : State) (items : List TxItem) : (s.send items).scratchLen = s.scratchLen := rfl
@[simp] theorem send_inCrc (s : State) (items : List TxItem) : (s.send items).inCrc = s.inCrc := rfl
@[simp] theorem send_crcDigits (s : State) (items : List TxItem) : (s.send items).crcDigits = s.crcDigits := rfl
@[simp] theorem send_crcRx (s : State) (items : List TxItem) : (s.send items).crcRx = s.crcRx := rfl
@[simp] theorem send_frameBytes (s : State) (items : List TxItem) : (s.send items).frameBytes = s.frameBytes := rfl
@[simp] theorem send_svcLen (s : State) (items : List TxItem) : (s.send items).svcLen = s.svcLen := rfl
@[simp] theorem send_txAddr (s : State) (items : List TxItem) : (s.send items).txAddr = s.txAddr := rfl
@[simp] theorem send_reqAddr (s : State) (items : List TxItem) : (s.send items).reqAddr = s.reqAddr := rfl
@[simp] theorem send_reqCount (s : State) (items : List TxItem) : (s.send items).reqCount = s.reqCount := rfl
@[simp] theorem send_waitActive (s : State) (items : List TxItem) : (s.send items).waitActive = s.waitActive := rfl
@[simp] theorem send_waitTimer (s : State) (items : List TxItem) : (s.send items).waitTimer = s.waitTimer := rfl
@[simp] theorem send_timeout (s : State) (items : List TxItem) : (s.send items).timeout = s.timeout := rfl
@[simp] theorem send_svc (s : State) (items : List TxItem) : (s.send items).svc = s.svc := rfl
@[simp] theorem send_result (s : State) (items : List TxItem) : (s.send items).result = s.result := rfl
@[simp] theorem send_resultStatus (s : State) (items : List TxItem) : (s.send items).resultStatus = s.resultStatus := rfl
@[simp] theorem send_inbound (s : State) (items : List TxItem) : (s.send items).inbound = s.inbound := rfl
@[simp] theorem send_outbound (s : State) (items : List TxItem) : (s.send items).outbound = s.outbound := rfl
@[simp] theorem send_responses (s : State) (items : List TxItem) : (s.send items).responses = s.responses := rfl
@[simp] theorem send_events (s : State) (items : List TxItem) : (s.send items).events = s.events := rfl
@[simp] theorem send_allocReqs (s : State) (items : List TxItem) : (s.send items).allocReqs = s.allocReqs := rfl
@[simp] theorem send_diag (s : State) (items : List TxItem) : (s.send items).diag = s.diag := rfl
@[simp] theorem send_rx (s : State) (items : List TxItem) : (s.send items).rx = s.rx := rfl
@[simp] theorem send_cmds (s : State) (items : List TxItem) : (s.send items).cmds = s.cmds := rfl
@[simp] theorem send_agenda (s : State) (items : List TxItem) : (s.send items).agenda = s.agenda := rfl
@[simp] theorem send_grants (s : State) (items : List TxItem) : (s.send items).grants = s.grants := rfl
@[simp] theorem send_draws (s : State) (items : List TxItem) : (s.send items).draws = s.draws := rfl
@[simp] theorem send_tx (s : State) (items : List TxItem) : (s.send items).tx = s.tx ++ items := rfl

/-! ### hold -/

@[simp] theorem hold_cfg (s : State) (bs : List Byte) : (s.hold bs).cfg = s.cfg := rfl
@[simp] theorem hold_ownAddress (s : State) (bs : List Byte) : (s.hold bs).ownAddress = s.ownAddress := rfl
@[simp] theorem hold_commandKind (s : State) (bs : List Byte) : (s.hold bs).commandKind = s.commandKind := rfl
@[simp] theorem hold_outboundState (s : State) (bs : List Byte) : (s.hold bs).outboundState = s.outboundState := rfl
@[simp] theorem hold_inboundActive (s : State) (bs : List Byte) : (s.hold bs).inboundActive = s.inboundActive := rfl
@[simp] theorem hold_crcAcc (s : State) (bs : List Byte) : (s.hold bs).crcAcc = s.crcAcc := rfl
@[simp] theorem hold_scratch (s : State) (bs : List Byte) : (s.hold bs).scratch = s.scratch := rfl
@[simp] theorem hold_scratchLen (s : State) (bs : List Byte) : (s.hold bs).scratchLen = s.scratchLen := rfl
@[simp] theorem hold_inCrc (s : State) (bs : List Byte) : (s.hold bs).inCrc = s.inCrc := rfl
@[simp] theorem hold_crcDigits (s : State) (bs : List Byte) : (s.hold bs).crcDigits = s.crcDigits := rfl
@[simp] theorem hold_crcRx (s : State) (bs : List Byte) : (s.hold bs).crcRx = s.crcRx := rfl
@[simp] theorem hold_frameBytes (s : State) (bs : List Byte) : (s.hold bs).frameBytes = s.frameBytes := rfl
@[simp] theorem hold_svcLen (s : State) (bs : List Byte) : (s.hold bs).svcLen = s.svcLen := rfl
@[simp] theorem hold_txAddr (s : State) (bs : List Byte) : (s.hold bs).txAddr = s.txAddr := rfl
@[simp] theorem hold_reqAddr (s : State) (bs : List Byte) : (s.hold bs).reqAddr = s.reqAddr := rfl
@[simp] theorem hold_reqCount (s : State) (bs : List Byte) : (s.hold bs).reqCount = s.reqCount := rfl
@[simp] theorem hold_waitActive (s : State) (bs : List Byte) : (s.hold bs).waitActive = s.waitActive := rfl
@[simp] theorem hold_waitTimer (s : State) (bs : List Byte) : (s.hold bs).waitTimer = s.waitTimer := rfl
@[simp] theorem hold_timeout (s : State) (bs : List Byte) : (s.hold bs).timeout = s.timeout := rfl
@[simp] theorem hold_svc (s : State) (bs : List Byte) : (s.hold bs).svc = s.svc := rfl
@[simp] theorem hold_result (s : State) (bs : List Byte) : (s.hold bs).result = s.result := rfl
@[simp] theorem hold_resultStatus (s : State) (bs : List Byte) : (s.hold bs).resultStatus = s.resultStatus := rfl
@[simp] theorem hold_inbound (s : State) (bs : List Byte) : (s.hold bs).inbound = s.inbound := rfl
@[simp] theorem hold_outbound (s : State) (bs : List Byte) : (s.hold bs).outbound = s.outbound := rfl
@[simp] theorem hold_tx (s : State) (bs : List Byte) : (s.hold bs).tx = s.tx := rfl
@[simp] theorem hold_responses (s : State) (bs : List Byte) : (s.hold bs).responses = s.responses := rfl
@[simp] theorem hold_events (s : State) (bs : List Byte) : (s.hold bs).events = s.events := rfl
@[simp] theorem hold_allocReqs (s : State) (bs : List Byte) : (s.hold bs).allocReqs = s.allocReqs := rfl
@[simp] theorem hold_diag (s : State) (bs : List Byte) : (s.hold bs).diag = s.diag := rfl
@[simp] theorem hold_cmds (s : State) (bs : List Byte) : (s.hold bs).cmds = s.cmds := rfl
@[simp] theorem hold_agenda (s : State) (bs : List Byte) : (s.hold bs).agenda = s.agenda := rfl
@[simp] theorem hold_grants (s : State) (bs : List Byte) : (s.hold bs).grants = s.grants := rfl
@[simp] theorem hold_draws (s : State) (bs : List Byte) : (s.hold bs).draws = s.draws := rfl
@[simp] theorem hold_rx (s : State) (bs : List Byte) : (s.hold bs).rx = bs ++ s.rx := rfl

/-! ### diagnose -/

@[simp] theorem diagnose_cfg (s : State) (r : Reason) : (s.diagnose r).cfg = s.cfg := by unfold diagnose; split <;> rfl
@[simp] theorem diagnose_ownAddress (s : State) (r : Reason) : (s.diagnose r).ownAddress = s.ownAddress := by unfold diagnose; split <;> rfl
@[simp] theorem diagnose_commandKind (s : State) (r : Reason) : (s.diagnose r).commandKind = s.commandKind := by unfold diagnose; split <;> rfl
@[simp] theorem diagnose_outboundState (s : State) (r : Reason) : (s.diagnose r).outboundState = s.outboundState := by unfold diagnose; split <;> rfl
@[simp] theorem diagnose_inboundActive (s : State) (r : Reason) : (s.diagnose r).inboundActive = s.inboundActive := by unfold diagnose; split <;> rfl
@[simp] theorem diagnose_crcAcc (s : State) (r : Reason) : (s.diagnose r).crcAcc = s.crcAcc := by unfold diagnose; split <;> rfl
@[simp] theorem diagnose_scratch (s : State) (r : Reason) : (s.diagnose r).scratch = s.scratch := by unfold diagnose; split <;> rfl
@[simp] theorem diagnose_scratchLen (s : State) (r : Reason) : (s.diagnose r).scratchLen = s.scratchLen := by unfold diagnose; split <;> rfl
@[simp] theorem diagnose_inCrc (s : State) (r : Reason) : (s.diagnose r).inCrc = s.inCrc := by unfold diagnose; split <;> rfl
@[simp] theorem diagnose_crcDigits (s : State) (r : Reason) : (s.diagnose r).crcDigits = s.crcDigits := by unfold diagnose; split <;> rfl
@[simp] theorem diagnose_crcRx (s : State) (r : Reason) : (s.diagnose r).crcRx = s.crcRx := by unfold diagnose; split <;> rfl
@[simp] theorem diagnose_frameBytes (s : State) (r : Reason) : (s.diagnose r).frameBytes = s.frameBytes := by unfold diagnose; split <;> rfl
@[simp] theorem diagnose_svcLen (s : State) (r : Reason) : (s.diagnose r).svcLen = s.svcLen := by unfold diagnose; split <;> rfl
@[simp] theorem diagnose_txAddr (s : State) (r : Reason) : (s.diagnose r).txAddr = s.txAddr := by unfold diagnose; split <;> rfl
@[simp] theorem diagnose_reqAddr (s : State) (r : Reason) : (s.diagnose r).reqAddr = s.reqAddr := by unfold diagnose; split <;> rfl
@[simp] theorem diagnose_reqCount (s : State) (r : Reason) : (s.diagnose r).reqCount = s.reqCount := by unfold diagnose; split <;> rfl
@[simp] theorem diagnose_waitActive (s : State) (r : Reason) : (s.diagnose r).waitActive = s.waitActive := by unfold diagnose; split <;> rfl
@[simp] theorem diagnose_waitTimer (s : State) (r : Reason) : (s.diagnose r).waitTimer = s.waitTimer := by unfold diagnose; split <;> rfl
@[simp] theorem diagnose_timeout (s : State) (r : Reason) : (s.diagnose r).timeout = s.timeout := by unfold diagnose; split <;> rfl
@[simp] theorem diagnose_svc (s : State) (r : Reason) : (s.diagnose r).svc = s.svc := by unfold diagnose; split <;> rfl
@[simp] theorem diagnose_result (s : State) (r : Reason) : (s.diagnose r).result = s.result := by unfold diagnose; split <;> rfl
@[simp] theorem diagnose_resultStatus (s : State) (r : Reason) : (s.diagnose r).resultStatus = s.resultStatus := by unfold diagnose; split <;> rfl
@[simp] theorem diagnose_inbound (s : State) (r : Reason) : (s.diagnose r).inbound = s.inbound := by unfold diagnose; split <;> rfl
@[simp] theorem diagnose_outbound (s : State) (r : Reason) : (s.diagnose r).outbound = s.outbound := by unfold diagnose; split <;> rfl
@[simp] theorem diagnose_tx (s : State) (r : Reason) : (s.diagnose r).tx = s.tx := by unfold diagnose; split <;> rfl
@[simp] theorem diagnose_responses (s : State) (r : Reason) : (s.diagnose r).responses = s.responses := by unfold diagnose; split <;> rfl
@[simp] theorem diagnose_events (s : State) (r : Reason) : (s.diagnose r).events = s.events := by unfold diagnose; split <;> rfl
@[simp] theorem diagnose_allocReqs (s : State) (r : Reason) : (s.diagnose r).allocReqs = s.allocReqs := by unfold diagnose; split <;> rfl
@[simp] theorem diagnose_rx (s : State) (r : Reason) : (s.diagnose r).rx = s.rx := by unfold diagnose; split <;> rfl
@[simp] theorem diagnose_cmds (s : State) (r : Reason) : (s.diagnose r).cmds = s.cmds := by unfold diagnose; split <;> rfl
@[simp] theorem diagnose_agenda (s : State) (r : Reason) : (s.diagnose r).agenda = s.agenda := by unfold diagnose; split <;> rfl
@[simp] theorem diagnose_grants (s : State) (r : Reason) : (s.diagnose r).grants = s.grants := by unfold diagnose; split <;> rfl
@[simp] theorem diagnose_draws (s : State) (r : Reason) : (s.diagnose r).draws = s.draws := by unfold diagnose; split <;> rfl
theorem diagnose_diag (s : State) (r : Reason) :
    (s.diagnose r).diag = if s.cfg.diagEnable then s.diag ++ [r] else s.diag := by unfold diagnose; split <;> rfl

/-! ### setBuf -/

@[simp] theorem setBuf_cfg (s : State) (id : BufId) (b : Buffer) : (s.setBuf id b).cfg = s.cfg := by cases id <;> rfl
@[simp] theorem setBuf_ownAddress (s : State) (id : BufId) (b : Buffer) : (s.setBuf id b).ownAddress = s.ownAddress := by cases id <;> rfl
@[simp] theorem setBuf_commandKind (s : State) (id : BufId) (b : Buffer) : (s.setBuf id b).commandKind = s.commandKind := by cases id <;> rfl
@[simp] theorem setBuf_outboundState (s : State) (id : BufId) (b : Buffer) : (s.setBuf id b).outboundState = s.outboundState := by cases id <;> rfl
@[simp] theorem setBuf_inboundActive (s : State) (id : BufId) (b : Buffer) : (s.setBuf id b).inboundActive = s.inboundActive := by cases id <;> rfl
@[simp] theorem setBuf_crcAcc (s : State) (id : BufId) (b : Buffer) : (s.setBuf id b).crcAcc = s.crcAcc := by cases id <;> rfl
@[simp] theorem setBuf_scratch (s : State) (id : BufId) (b : Buffer) : (s.setBuf id b).scratch = s.scratch := by cases id <;> rfl
@[simp] theorem setBuf_scratchLen (s : State) (id : BufId) (b : Buffer) : (s.setBuf id b).scratchLen = s.scratchLen := by cases id <;> rfl
@[simp] theorem setBuf_inCrc (s : State) (id : BufId) (b : Buffer) : (s.setBuf id b).inCrc = s.inCrc := by cases id <;> rfl
@[simp] theorem setBuf_crcDigits (s : State) (id : BufId) (b : Buffer) : (s.setBuf id b).crcDigits = s.crcDigits := by cases id <;> rfl
@[simp] theorem setBuf_crcRx (s : State) (id : BufId) (b : Buffer) : (s.setBuf id b).crcRx = s.crcRx := by cases id <;> rfl
@[simp] theorem setBuf_frameBytes (s : State) (id : BufId) (b : Buffer) : (s.setBuf id b).frameBytes = s.frameBytes := by cases id <;> rfl
@[simp] theorem setBuf_svcLen (s : State) (id : BufId) (b : Buffer) : (s.setBuf id b).svcLen = s.svcLen := by cases id <;> rfl
@[simp] theorem setBuf_txAddr (s : State) (id : BufId) (b : Buffer) : (s.setBuf id b).txAddr = s.txAddr := by cases id <;> rfl
@[simp] theorem setBuf_reqAddr (s : State) (id : BufId) (b : Buffer) : (s.setBuf id b).reqAddr = s.reqAddr := by cases id <;> rfl
@[simp] theorem setBuf_reqCount (s : State) (id : BufId) (b : Buffer) : (s.setBuf id b).reqCount = s.reqCount := by cases id <;> rfl
@[simp] theorem setBuf_waitActive (s : State) (id : BufId) (b : Buffer) : (s.setBuf id b).waitActive = s.waitActive := by cases id <;> rfl
@[simp] theorem setBuf_waitTimer (s : State) (id : BufId) (b : Buffer) : (s.setBuf id b).waitTimer = s.waitTimer := by cases id <;> rfl
@[simp] theorem setBuf_timeout (s : State) (id : BufId) (b : Buffer) : (s.setBuf id b).timeout = s.timeout := by cases id <;> rfl
@[simp] theorem setBuf_svc (s : State) (id : BufId) (b : Buffer) : (s.setBuf id b).svc = s.svc := by cases id <;> rfl
@[simp] theorem setBuf_result (s : State) (id : BufId) (b : Buffer) : (s.setBuf id b).result = s.result := by cases id <;> rfl
@[simp] theorem setBuf_resultStatus (s : State) (id : BufId) (b : Buffer) : (s.setBuf id b).resultStatus = s.resultStatus := by cases id <;> rfl
@[simp] theorem setBuf_tx (s : State) (id : BufId) (b : Buffer) : (s.setBuf id b).tx = s.tx := by cases id <;> rfl
@[simp] theorem setBuf_responses (s : State) (id : BufId) (b : Buffer) : (s.setBuf id b).responses = s.responses := by cases id <;> rfl
@[simp] theorem setBuf_events (s : State) (id : BufId) (b : Buffer) : (s.setBuf id b).events = s.events := by cases id <;> rfl
@[simp] theorem setBuf_allocReqs (s : State) (id : BufId) (b : Buffer) : (s.setBuf id b).allocReqs = s.allocReqs := by cases id <;> rfl
@[simp] theorem setBuf_diag (s : State) (id : BufId) (b : Buffer) : (s.setBuf id b).diag = s.diag := by cases id <;> rfl
@[simp] theorem setBuf_rx (s : State) (id : BufId) (b : Buffer) : (s.setBuf id b).rx = s.rx := by cases id <;> rfl
@[simp] theorem setBuf_cmds (s : State) (id : BufId) (b : Buffer) : (s.setBuf id b).cmds = s.cmds := by cases id <;> rfl
@[simp] theorem setBuf_agenda (s : State) (id : BufId) (b : Buffer) : (s.setBuf id b).agenda = s.agenda := by cases id <;> rfl
@[simp] theorem setBuf_grants (s : State) (id : BufId) (b : Buffer) : (s.setBuf id b).grants = s.grants := by cases id <;> rfl
@[simp] theorem setBuf_draws (s : State) (id : BufId) (b : Buffer) : (s.setBuf id b).draws = s.draws := by cases id <;> rfl
@[simp] theorem setBuf_inbound_inbound (s : State) (b : Buffer) : (s.setBuf .inbound b).inbound = b := rfl
@[simp] theorem setBuf_inbound_outbound (s : State) (b : Buffer) : (s.setBuf .inbound b).outbound = s.outbound := rfl
@[simp] theorem setBuf_outbound_inbound (s : State) (b : Buffer) : (s.setBuf .outbound b).inbound = s.inbound := rfl
@[simp] theorem setBuf_outbound_outbound (s : State) (b : Buffer) : (s.setBuf .outbound b).outbound = b := rfl
@[simp] theorem buf_inbound (s : State) : s.buf .inbound = s.inbound := rfl
@[simp] theorem buf_outbound (s : State) : s.buf .outbound = s.outbound := rfl
@[simp] theorem buf_setBuf_same (s : State) (id : BufId) (b : Buffer) : (s.setBuf id b).buf id = b := by cases id <;> rfl

end Sys2Proof.Machine.State
end

