-- ==== Sys2Proof/Laws/Memory.lean ====
section
/-! SUPPORT. Storage: the canonical form is kept, a read after a write, and what an append does to a sound buffer. -/

namespace Sys2Proof.Machine

/-- A write lists the written index and, besides, only what was listed. -/
theorem mem_memWrite {m : Memory} {i : Nat} {b : Byte} {c : Host.Cell} (h : c ∈ memWrite m i b) :
    c = (i, b) ∨ c ∈ m := by
  induction m with
  | nil => simpa [memWrite] using h
  | cons kv m ih =>
    obtain ⟨k, v⟩ := kv
    simp only [memWrite] at h
    split at h
    · simpa using h
    · split at h
      · simp only [List.mem_cons] at h ⊢; tauto
      · simp only [List.mem_cons] at h ⊢
        rcases h with h | h
        · exact .inr (.inl h)
        · rcases ih h with h | h
          · exact .inl h
          · exact .inr (.inr h)

/-- Every write keeps the canonical form. -/
theorem memWrite_wf {m : Memory} (i : Nat) (b : Byte) (h : m.wf) : (memWrite m i b).wf := by
  induction m with
  | nil => simp [memWrite, Memory.wf]
  | cons kv m ih =>
    obtain ⟨k, v⟩ := kv
    obtain ⟨hk, hm⟩ := List.pairwise_cons.mp h
    simp only [memWrite]
    split
    · rename_i hi
      refine List.pairwise_cons.mpr ⟨?_, h⟩
      intro c hc
      rcases List.mem_cons.mp hc with rfl | hc
      · exact hi
      · exact lt_trans hi (hk c hc)
    · rename_i hi
      split
      · rename_i he
        exact List.pairwise_cons.mpr ⟨fun c hc => he ▸ hk c hc, hm⟩
      · rename_i he
        refine List.pairwise_cons.mpr ⟨?_, ih hm⟩
        intro c hc
        rcases mem_memWrite hc with rfl | hc
        · show k < i; omega
        · exact hk c hc

/-- An index below every listed one holds no value. -/
theorem memRead_of_lt {m : Memory} {i : Nat} (h : ∀ c ∈ m, i < c.1) : memRead m i = none := by
  induction m with
  | nil => rfl
  | cons kv m ih =>
    obtain ⟨k, v⟩ := kv
    have hk : i < k := h (k, v) (by simp)
    simp only [memRead]
    rw [if_neg (by omega)]
    exact ih fun c hc => h c (by simp [hc])

/-- A read after a write: the written index gives the byte, every other index what it gave. -/
theorem memRead_memWrite (m : Memory) (i j : Nat) (b : Byte) :
    memRead (memWrite m i b) j = if i = j then some b else memRead m j := by
  induction m with
  | nil => simp [memWrite, memRead]
  | cons kv m ih =>
    obtain ⟨k, v⟩ := kv
    simp only [memWrite]
    split
    · simp [memRead]
    · split
      · rename_i he
        subst he
        simp only [memRead]
        split <;> rfl
      · rename_i he
        simp only [memRead, ih]
        by_cases hkj : k = j
        · subst hkj; simp [he]
        · simp [hkj]

/-- A write past every listed index appends the cell. -/
theorem memWrite_append {m : Memory} {i : Nat} (b : Byte) (h : ∀ c ∈ m, c.1 < i) :
    memWrite m i b = m ++ [(i, b)] := by
  induction m with
  | nil => rfl
  | cons kv m ih =>
    obtain ⟨k, v⟩ := kv
    have hk : k < i := h (k, v) (by simp)
    simp only [memWrite]
    rw [if_neg (by omega), if_neg (by omega), ih fun c hc => h c (by simp [hc])]
    rfl

/-- Storage that holds exactly the indices below `n` is canonical. -/
theorem wf_of_keys {m : Memory} {n : Nat} (h : m.map Prod.fst = List.range n) : m.wf := by
  have hp : (m.map Prod.fst).Pairwise (· < ·) := h ▸ List.pairwise_lt_range
  exact List.pairwise_map.mp hp

/-- Both storages are canonical right after reset. -/
theorem reset_storage_wf : State.reset.inbound.storage.wf ∧ State.reset.outbound.storage.wf := by decide

/-- The indices of such storage are below `n`. -/
theorem keys_lt {m : Memory} {n : Nat} (h : m.map Prod.fst = List.range n) : ∀ c ∈ m, c.1 < n := by
  intro c hc
  have : c.1 ∈ m.map Prod.fst := List.mem_map_of_mem hc
  rw [h] at this
  exact List.mem_range.mp this

namespace Buffer

@[simp] theorem append_length (buf : Buffer) (b : Byte) : (buf.append b).length = buf.length + 1 := rfl
@[simp] theorem append_position (buf : Buffer) (b : Byte) : (buf.append b).position = buf.position := rfl
@[simp] theorem append_capacity (buf : Buffer) (b : Byte) : (buf.append b).capacity = buf.capacity := rfl
@[simp] theorem cleared_length (n : Nat) : (cleared n).length = 0 := rfl
@[simp] theorem cleared_position (n : Nat) : (cleared n).position = 0 := rfl
@[simp] theorem cleared_capacity (n : Nat) : (cleared n).capacity = n := rfl
@[simp] theorem cleared_storage (n : Nat) : (cleared n).storage = [] := rfl
@[simp] theorem cleared_bytes (n : Nat) : (cleared n).bytes = [] := rfl

/-- An append keeps the canonical form. -/
theorem append_wf {buf : Buffer} (b : Byte) (h : buf.storage.wf) : (buf.append b).storage.wf := memWrite_wf _ b h

/-- A cleared buffer's storage is canonical. -/
theorem cleared_wf (n : Nat) : (cleared n).storage.wf := List.Pairwise.nil

/-- An append keeps the storage exactly filled. -/
theorem append_keys {buf : Buffer} (b : Byte) (h : buf.storage.map Prod.fst = List.range buf.length) :
    (buf.append b).storage.map Prod.fst = List.range (buf.append b).length := by
  show (memWrite buf.storage buf.length b).map Prod.fst = List.range (buf.length + 1)
  rw [memWrite_append b (keys_lt h), List.map_append, h, List.range_succ]
  rfl

/-- An append keeps every byte below the old length. -/
theorem read_append_of_lt (buf : Buffer) (b : Byte) {i : Nat} (h : i < buf.length) :
    (buf.append b).read i = buf.read i := by
  have h1 : i < (buf.append b).length := by show i < buf.length + 1; omega
  unfold read
  rw [if_pos h1, if_pos h]
  show memRead (memWrite buf.storage buf.length b) i = _
  rw [memRead_memWrite, if_neg (by omega)]

/-- The appended byte stands at the old length. -/
theorem read_append_length (buf : Buffer) (b : Byte) : (buf.append b).read buf.length = some b := by
  have h1 : buf.length < (buf.append b).length := by show buf.length < buf.length + 1; omega
  unfold read
  rw [if_pos h1]
  show memRead (memWrite buf.storage buf.length b) buf.length = _
  rw [memRead_memWrite, if_pos rfl]

/-- An append puts the byte behind the bytes that were there. -/
theorem bytes_append (buf : Buffer) (b : Byte) : (buf.append b).bytes = buf.bytes ++ [b] := by
  have hlen : (buf.append b).length = buf.length + 1 := rfl
  unfold bytes
  rw [hlen, List.range_succ, List.filterMap_append]
  congr 1
  · exact List.filterMap_congr fun i hi => read_append_of_lt buf b (List.mem_range.mp hi)
  · simp [read_append_length]

end Buffer

end Sys2Proof.Machine
end

