-- ==== Sys2Proof/Laws/Ops.lean ====
section
/-! SUPPORT. For each shared operation one lemma that says all it can do: what it answers and every field it writes; the
rest of the state stands as it was. -/

namespace Sys2Proof.Machine

/-! ### The allocator -/

theorem nextGrant_of_cannot_fail {s : State} (h : s.cfg.allocCanFail = false) : nextGrant s = true := by
  simp [nextGrant, h]

/-- An answer drawn moves the answers that come and the draw counter, nothing else. -/
theorem drawGrant_eq (s : State) :
    drawGrant s =
      { s with
        grants := if s.cfg.allocCanFail then s.grants.tail else s.grants
        draws := if s.cfg.allocCanFail ∧ s.grants = [] then s.draws + 1 else s.draws } := by
  unfold drawGrant
  cases hf : s.cfg.allocCanFail <;> cases hg : s.grants <;> cases s <;> simp_all

/-! ### The buffer primitives -/

/-- BufRelease of `inbound`: the buffer empty with capacity 0, one request iff it had storage (R136). -/
theorem bufRelease_inbound_eq (s : State) :
    bufRelease .inbound s =
      { s with
        inbound := Buffer.cleared 0
        allocReqs := s.allocReqs ++ if s.inbound.capacity ≠ 0 then [⟨.inbound, 0⟩] else [] } := by
  unfold bufRelease
  split <;> simp_all [State.buf, State.setBuf, State.logAlloc]

/-- BufRelease of `outbound` (R136). -/
theorem bufRelease_outbound_eq (s : State) :
    bufRelease .outbound s =
      { s with
        outbound := Buffer.cleared 0
        allocReqs := s.allocReqs ++ if s.outbound.capacity ≠ 0 then [⟨.outbound, 0⟩] else [] } := by
  unfold bufRelease
  split <;> simp_all [State.buf, State.setBuf, State.logAlloc]

/-- BufClear of `inbound`: the buffer empty, trimmed, one request iff the capacity moved (R135). -/
theorem bufClear_inbound_eq (s : State) :
    bufClear .inbound s =
      { s with
        inbound := Buffer.cleared (clearedCap s.cfg s.inbound)
        allocReqs := s.allocReqs ++
          if clearedCap s.cfg s.inbound ≠ s.inbound.capacity then [⟨.inbound, clearedCap s.cfg s.inbound⟩] else [] } := by
  unfold bufClear
  simp only [State.buf]
  split <;> simp_all [State.setBuf, State.logAlloc]

/-- BufClear of `outbound` (R135). -/
theorem bufClear_outbound_eq (s : State) :
    bufClear .outbound s =
      { s with
        outbound := Buffer.cleared (clearedCap s.cfg s.outbound)
        allocReqs := s.allocReqs ++
          if clearedCap s.cfg s.outbound ≠ s.outbound.capacity then [⟨.outbound, clearedCap s.cfg s.outbound⟩] else [] } := by
  unfold bufClear
  simp only [State.buf]
  split <;> simp_all [State.setBuf, State.logAlloc]

/-- BufWrite that fits: the byte appended, nothing else (R132). -/
theorem bufWrite_fits {id : BufId} {s : State} (b : Byte) (h : (s.buf id).length + 1 ≤ (s.buf id).capacity) :
    bufWrite id b s = (true, s.setBuf id ((s.buf id).append b)) := by
  unfold bufWrite
  simp only
  rw [if_neg (by omega)]

/-- BufWrite with a growth granted: one request, the capacity asked for, the byte appended (R131, R132). -/
theorem bufWrite_grows {id : BufId} {s : State} (b : Byte) (h : (s.buf id).capacity < (s.buf id).length + 1)
    (hg : nextGrant s = true) :
    bufWrite id b s =
      (true, (drawGrant (s.logAlloc id (growCap s.cfg ((s.buf id).length + 1)))).setBuf id
        (Buffer.append { s.buf id with capacity := growCap s.cfg ((s.buf id).length + 1) } b)) := by
  unfold bufWrite
  simp only
  rw [if_pos (by omega), if_pos hg]

/-- BufWrite with a growth refused: the buffer released, every byte in it lost (R131, R132). -/
theorem bufWrite_refused {id : BufId} {s : State} (b : Byte) (h : (s.buf id).capacity < (s.buf id).length + 1)
    (hg : nextGrant s = false) :
    bufWrite id b s = (false, bufRelease id (drawGrant (s.logAlloc id (growCap s.cfg ((s.buf id).length + 1))))) := by
  unfold bufWrite
  simp only
  rw [if_pos (by omega), if_neg (by simp [hg])]

/-- BufWrite says false only on a refused growth (R132). -/
theorem bufWrite_result (id : BufId) (b : Byte) (s : State) :
    (bufWrite id b s).1 = (decide ((s.buf id).length + 1 ≤ (s.buf id).capacity) || nextGrant s) := by
  by_cases h : (s.buf id).length + 1 ≤ (s.buf id).capacity
  · simp [bufWrite_fits b h, h]
  · cases hg : nextGrant s
    · simp [bufWrite_refused b (Nat.lt_of_not_le h) hg, h]
    · simp [bufWrite_grows b (Nat.lt_of_not_le h) hg]

/-- What BufWrite leaves, whatever it answers, besides the buffer: requests, coming answers and draw counter move. -/
theorem bufWrite_frame (id : BufId) (b : Byte) (s : State) :
    ∃ buf' reqs gs n, (bufWrite id b s).2 =
      { s.setBuf id buf' with allocReqs := s.allocReqs ++ reqs, grants := gs, draws := n } := by
  by_cases h : (s.buf id).length + 1 ≤ (s.buf id).capacity
  · exact ⟨(s.buf id).append b, [], s.grants, s.draws, by cases id <;> simp [bufWrite_fits b h, State.setBuf]⟩
  · cases hg : nextGrant s
    · rw [bufWrite_refused b (Nat.lt_of_not_le h) hg]
      cases id
      · exact ⟨_, _, _, _, by
          rw [drawGrant_eq, bufRelease_inbound_eq]; simp only [State.setBuf, State.logAlloc, List.append_assoc]; rfl⟩
      · exact ⟨_, _, _, _, by
          rw [drawGrant_eq, bufRelease_outbound_eq]; simp only [State.setBuf, State.logAlloc, List.append_assoc]; rfl⟩
    · rw [bufWrite_grows b (Nat.lt_of_not_le h) hg]
      cases id
      · exact ⟨_, _, _, _, by rw [drawGrant_eq]; simp only [State.setBuf, State.logAlloc]; rfl⟩
      · exact ⟨_, _, _, _, by rw [drawGrant_eq]; simp only [State.setBuf, State.logAlloc]; rfl⟩

/-! ### Discard, the line writer, the callback window, the end of a wait -/

/-- Discard, whole: what each field becomes (R163). -/
theorem discard_eq (r : Reason) (s : State) :
    discard r s =
      { s with
        diag := if s.cfg.diagEnable then s.diag ++ [r] else s.diag
        commandKind := .discard
        scratchLen := 0
        inCrc := false
        crcDigits := 0
        inbound := if s.inboundActive || awaiting s then Buffer.cleared (clearedCap s.cfg s.inbound) else s.inbound
        allocReqs := s.allocReqs ++
          if (s.inboundActive || awaiting s) ∧ clearedCap s.cfg s.inbound ≠ s.inbound.capacity then
            [⟨.inbound, clearedCap s.cfg s.inbound⟩] else []
        inboundActive := false
        outboundState := if awaiting s then .idle else s.outboundState } := by
  unfold discard State.diagnose
  simp only [bufClear_inbound_eq]
  cases hd : s.cfg.diagEnable <;> cases hc : (s.inboundActive || awaiting s) <;> simp

theorem emitFrame_eq (k : Keyword) (addr : Byte) (data : List Byte) (s : State) :
    emitFrame k addr data s = { s with tx := s.tx ++ frameItems s.cfg k addr data } := rfl

theorem enterCallback_eq (kind : Svc) (e : Event) (s : State) :
    enterCallback kind e s =
      { s with
        inbound := { s.inbound with position := 1 }
        inboundActive := false
        commandKind := .none
        svc := kind
        events := s.events ++ [e] } := rfl

theorem endWait_eq (st : WaitStatus) (v : Half) (s : State) :
    endWait st v s =
      { s with
        result := v
        resultStatus := st
        outboundState := .idle
        waitActive := false
        events := s.events ++ [.reqDone st v] } := rfl

/-- The padding loop touches `outbound`, the requests and the allocator's answers only (R259). -/
theorem padOutbound_frame (n : Nat) (s : State) :
    ∃ buf' reqs gs m, padOutbound n s =
      { s with outbound := buf', allocReqs := s.allocReqs ++ reqs, grants := gs, draws := m } := by
  induction n generalizing s with
  | zero => exact ⟨s.outbound, [], s.grants, s.draws, by simp [padOutbound]⟩
  | succ n ih =>
    unfold padOutbound
    split
    · obtain ⟨b, rs, gs, m, hw⟩ := bufWrite_frame .outbound Config.filler s
      rcases hr : bufWrite .outbound Config.filler s with ⟨ok, s'⟩
      rw [hr] at hw
      simp only at hw
      cases ok
      · exact ⟨b, rs, gs, m, by simp [hw, State.setBuf]⟩
      · obtain ⟨b', rs', gs', m', hp⟩ := ih s'
        refine ⟨b', rs ++ rs', gs', m', ?_⟩
        show padOutbound n s' = _
        rw [hp, hw]
        simp only [State.setBuf, List.append_assoc]
    · exact ⟨s.outbound, [], s.grants, s.draws, by simp⟩

/-! ### Feeding text -/

@[simp] theorem feedText_nil (s : State) : feedText [] s = .next s := rfl

/-- One byte of a text while the port is ready. -/
theorem feedText_cons {b : Byte} {bs : List Byte} {s t : State} (h : s.svc = .none) (hb : feedReady b s = .next t) :
    feedText (b :: bs) s = feedText bs t := by
  simp [feedText, h, hb]

/-- A text at a stalled port waits in the transport, in order. -/
theorem feedText_stalled {bs : List Byte} {s : State} (h : s.svc ≠ .none) : feedText bs s = .next (s.hold bs) := by
  cases bs <;> simp [feedText, h, State.hold]

theorem feed_stalled {b : Byte} {s : State} (h : s.svc ≠ .none) : feed b s = .next (s.hold [b]) := by
  simp [feed, h]

theorem feed_ready {b : Byte} {s : State} (h : s.svc = .none) : feed b s = feedReady b s := by
  simp [feed, h]

end Sys2Proof.Machine
end

