-- ==== Sys2Proof/Laws/PerInstr.lean ====
section
/-! SUPPORT. One law per operation: it stands on the port that spec/opcode_table.json's format gives its row, in that row's
shape (R118): a wire line opens with its header and closes with the line feed, a received byte is of its class, a command
word carries its opcode and both operands. -/

namespace Sys2Proof.Laws.PortForm
open Machine

/-- A text in the shape of a line of this keyword: header, hex pairs, optional suffix, line feed (R90, R91). -/
abbrev IsLine (k : Keyword) (pairs : Nat) (sum : Option Half) (x : Stimulus) : Prop :=
  ∃ text, x = .line text ∧ text.take 6 = header k ∧ text.getLast? = some charLF ∧
    text.length = 6 + 2 * pairs + (if sum.isSome then 5 else 0) + 1

/-- A command word with these three fields (R107). -/
abbrev IsCommand (op a b : Byte) (x : Stimulus) : Prop :=
  ∃ w, x = .command w ∧ cmdOp w = op ∧ cmdA w = a ∧ cmdB w = b

/-- A received byte of this class (R101). -/
abbrev IsByte (c : ByteClass) (x : Stimulus) : Prop := ∃ b, x = .byte b ∧ classOf b = c

/-- The port and the shape of an operation. -/
def Statement (i : Instr) : Prop :=
  match i with
  | .i2ct _ data sum => IsLine .i2ct (1 + data.length) sum (encode i)
  | .i2cr _ _ sum => IsLine .i2cr 2 sum (encode i)
  | .i2ca _ data sum => IsLine .i2ca (1 + data.length) sum (encode i)
  | .nack _ sum => IsLine .i2ca 1 sum (encode i)
  | .feedLF => IsByte .lf (encode i)
  | .feedCR => IsByte .cr (encode i)
  | .feedPLUS => IsByte .plus (encode i)
  | .feedHASH => IsByte .hash (encode i)
  | .feedSEP _ => i.wellFormed = true → IsByte .sep (encode i)
  | .feedHEXDIGIT _ => i.wellFormed = true → IsByte .hexDigit (encode i)
  | .feedOTHER _ => i.wellFormed = true → IsByte .other (encode i)
  | .cmdNop a b => IsCommand 0x00#8 a b (encode i)
  | .cmdBegin a b => IsCommand 0x01#8 a b (encode i)
  | .cmdBeginm a b => IsCommand 0x02#8 a b (encode i)
  | .cmdEnd a b => IsCommand 0x03#8 a b (encode i)
  | .cmdBegintx a b => IsCommand 0x10#8 a b (encode i)
  | .cmdWrite a b => IsCommand 0x11#8 a b (encode i)
  | .cmdEndtx a b => IsCommand 0x12#8 a b (encode i)
  | .cmdReqfrom a b => IsCommand 0x13#8 a b (encode i)
  | .cmdRead a b => IsCommand 0x20#8 a b (encode i)
  | .cmdPeek a b => IsCommand 0x21#8 a b (encode i)
  | .cmdAvail a b => IsCommand 0x22#8 a b (encode i)
  | .cmdCbdone a b => IsCommand 0x30#8 a b (encode i)
  | .cmdSetto a b => IsCommand 0x40#8 a b (encode i)
  | .cmdRdreg a b => IsCommand 0x41#8 a b (encode i)
  | .cmdReserved op a b => IsCommand op a b (encode i)
  | .tick => encode i = .tick
  | .reqComplete => encode i = .engine

/-- Every line the encoder writes has the shape of its keyword's row. -/
theorem line_isLine (k : Keyword) (payload : List Byte) (sum : Option Half) :
    IsLine k payload.length sum (.line (Encode.line k payload sum)) := by
  have hk : (header k).length = 6 := by cases k <;> rfl
  refine ⟨_, rfl, ?_, by simp [Encode.line], ?_⟩
  · rw [Encode.line, List.append_assoc, List.append_assoc, List.take_append_of_le_length (by omega), List.take_of_length_le (by omega)]
  · have hp : (payload.flatMap hex2).length = 2 * payload.length := by
      simp [List.length_flatMap, hex2, Nat.mul_comm]
    cases sum <;> simp [Encode.line, hk, hp, Encode.suffix, hex4, hex2]
    all_goals omega

/-- Every command word the encoder writes has its three fields. -/
theorem commandWord_isCommand (op a b : Byte) : IsCommand op a b (.command (commandWord op a b)) :=
  ⟨_, rfl, cmdOp_commandWord op a b, cmdA_commandWord op a b, cmdB_commandWord op a b⟩

theorem i2ct (addr : Byte) (data : List Byte) (sum : Option Half) : Statement (.i2ct addr data sum) := by
  have h := line_isLine .i2ct (addr :: data) sum
  rw [List.length_cons, Nat.add_comm] at h
  exact h

theorem i2cr (addr count : Byte) (sum : Option Half) : Statement (.i2cr addr count sum) :=
  line_isLine .i2cr [addr, count] sum

theorem i2ca (addr : Byte) (data : List Byte) (sum : Option Half) : Statement (.i2ca addr data sum) := by
  have h := line_isLine .i2ca (addr :: data) sum
  rw [List.length_cons, Nat.add_comm] at h
  exact h

theorem nack (addr : Byte) (sum : Option Half) : Statement (.nack addr sum) := line_isLine .i2ca [addr] sum

theorem feedLF : Statement .feedLF := ⟨charLF, rfl, by decide⟩

theorem feedCR : Statement .feedCR := ⟨charCR, rfl, by decide⟩

theorem feedPLUS : Statement .feedPLUS := ⟨charPlus, rfl, by decide⟩

theorem feedHASH : Statement .feedHASH := ⟨charHash, rfl, by decide⟩

theorem feedSEP (b : Byte) : Statement (.feedSEP b) := fun h => ⟨b, rfl, by simpa [Instr.wellFormed] using h⟩

theorem feedHEXDIGIT (b : Byte) : Statement (.feedHEXDIGIT b) := fun h => ⟨b, rfl, by simpa [Instr.wellFormed] using h⟩

theorem feedOTHER (b : Byte) : Statement (.feedOTHER b) := fun h => ⟨b, rfl, by simpa [Instr.wellFormed] using h⟩

theorem cmdNop (a b : Byte) : Statement (.cmdNop a b) := commandWord_isCommand _ a b

theorem cmdBegin (a b : Byte) : Statement (.cmdBegin a b) := commandWord_isCommand _ a b

theorem cmdBeginm (a b : Byte) : Statement (.cmdBeginm a b) := commandWord_isCommand _ a b

theorem cmdEnd (a b : Byte) : Statement (.cmdEnd a b) := commandWord_isCommand _ a b

theorem cmdBegintx (a b : Byte) : Statement (.cmdBegintx a b) := commandWord_isCommand _ a b

theorem cmdWrite (a b : Byte) : Statement (.cmdWrite a b) := commandWord_isCommand _ a b

theorem cmdEndtx (a b : Byte) : Statement (.cmdEndtx a b) := commandWord_isCommand _ a b

theorem cmdReqfrom (a b : Byte) : Statement (.cmdReqfrom a b) := commandWord_isCommand _ a b

theorem cmdRead (a b : Byte) : Statement (.cmdRead a b) := commandWord_isCommand _ a b

theorem cmdPeek (a b : Byte) : Statement (.cmdPeek a b) := commandWord_isCommand _ a b

theorem cmdAvail (a b : Byte) : Statement (.cmdAvail a b) := commandWord_isCommand _ a b

theorem cmdCbdone (a b : Byte) : Statement (.cmdCbdone a b) := commandWord_isCommand _ a b

theorem cmdSetto (a b : Byte) : Statement (.cmdSetto a b) := commandWord_isCommand _ a b

theorem cmdRdreg (a b : Byte) : Statement (.cmdRdreg a b) := commandWord_isCommand _ a b

theorem cmdReserved (op a b : Byte) : Statement (.cmdReserved op a b) := commandWord_isCommand op a b

theorem tick : Statement .tick := rfl

theorem reqComplete : Statement .reqComplete := rfl

end Sys2Proof.Laws.PortForm
end

