-- ==== Sys2Proof/Laws/Terms.lean ====
section
/-! SUPPORT. The terms the statements speak in: running a list of operations, an append whose growth is granted, and the words
on the ports as numbers. -/

namespace Sys2Proof.Machine

/-! ### Operations one after another -/

@[simp] theorem execAll_nil (s : State) : execAll [] s = .next s := rfl

theorem execAll_cons {i : Instr} {is : List Instr} {s t : State} (h : exec i s = .next t) :
    execAll (i :: is) s = execAll is t := by
  simp [execAll, h]

/-- A run that answers a next state has a first step that does. -/
theorem execAll_cons_next {i : Instr} {is : List Instr} {s u : State} (h : execAll (i :: is) s = .next u) :
    ∃ t, exec i s = .next t ∧ execAll is t = .next u := by
  simp only [execAll] at h
  split at h
  · exact ⟨_, ‹_›, h⟩
  · cases h
  · cases h

/-- Two runs in a row are the run of both lists. -/
theorem execAll_append {is js : List Instr} {s t : State} (h : execAll is s = .next t) :
    execAll (is ++ js) s = execAll js t := by
  induction is generalizing s with
  | nil => cases h; rfl
  | cons i is ih =>
    obtain ⟨r, hr, hrs⟩ := execAll_cons_next h
    rw [List.cons_append, execAll_cons hr, ih hrs]

/-! ### An append whose growth is granted -/

/-- With the next answer a grant, a growth is granted and no answer is drawn from the free value. -/
theorem nextGrant_of_grantsFor {s : State} (h : GrantsFor 1 s) : nextGrant s = true := by
  cases hf : s.cfg.allocCanFail with
  | false => exact nextGrant_of_cannot_fail hf
  | true =>
    obtain ⟨hl, hg⟩ := h hf
    cases hgs : s.grants with
    | nil => simp [hgs] at hl
    | cons g gs => simpa [nextGrant, hf, hgs] using hg g (by simp [hgs])

/-- BufWrite with the next answer a grant (R131, R132): the byte appended at the capacity R132 gives, one request iff it had to
grow, and the answer used up. -/
theorem bufWrite_granted {id : BufId} {s : State} (b : Byte) (h : GrantsFor 1 s) :
    bufWrite id b s =
      (true, { s with
        allocReqs := s.allocReqs ++ appendRequest id s.cfg (s.buf id)
        grants := appendGrants (s.buf id) s }.setBuf id
          (Buffer.append { s.buf id with capacity := appendedCap s.cfg (s.buf id) } b)) := by
  by_cases hn : (s.buf id).NeedsGrowth
  · rw [bufWrite_grows b (by omega) (nextGrant_of_grantsFor h), drawGrant_eq]
    have hd : ¬(s.cfg.allocCanFail = true ∧ s.grants = []) := by
      rintro ⟨hf, hs⟩
      simpa [hs] using (h hf).1
    cases hf : s.cfg.allocCanFail <;>
      simp_all [appendRequest, appendGrants, appendedCap, growCap, State.logAlloc]
  · rw [bufWrite_fits b (by omega)]
    simp [appendRequest, appendGrants, appendedCap, hn]

/-! ### The words on the ports -/

/-- The response word: the status code above the value (R110). -/
theorem response_word_toNat (r : Response) : r.word.toNat = r.status.code.toNat * 0x10000 + r.value.toNat := by
  simp only [Response.word, append_toNat, Nat.reducePow]

/-- An event word: code, status code, value from the top down (R112). -/
theorem event_word_toNat (c st : Byte) (v : Half) :
    (c ++ st ++ v : EventWord).toNat = c.toNat * 0x1000000 + st.toNat * 0x10000 + v.toNat := by
  rw [append_toNat, append_toNat]
  generalize c.toNat = i, st.toNat = j, v.toNat = k
  norm_num
  omega

end Sys2Proof.Machine
end

