-- ==== Sys2Proof/Tests/Slice0.lean ====
section
/-! SUPPORT. Tests: ill-formed terms refused, words written out from the encodings, one step per operation with results from
the spec's worked examples, and for every statement with hypotheses a witness that meets them (one per clause). -/

namespace Sys2Proof.Tests
open Machine

/-! ## Well-formedness: an ill-formed term for each check -/

theorem test_wf_sep : (Instr.feedSEP 0x3B#8).wellFormed = false := by decide
theorem test_wf_hexdigit : (Instr.feedHEXDIGIT 0x67#8).wellFormed = false := by decide
theorem test_wf_other : (Instr.feedOTHER 0x41#8).wellFormed = false := by decide
theorem test_wf_reserved : (Instr.cmdReserved 0x41#8 0#8 0#8).wellFormed = false := by decide
theorem test_wf_count : (Instr.i2cr 0x21#8 0#8 none).wellFormed = false := by decide
theorem test_wf_empty : (Instr.i2ca 0x21#8 [] none).wellFormed = false := by decide
theorem test_wf_transmit_long (data : List Byte) (h : data.length = 65535) :
    (Instr.i2ct 0x21#8 data none).wellFormed = false := by
  simp [Instr.wellFormed, maxDataBytes, h]
theorem test_wf_response_long (data : List Byte) (h : data.length = 65535) :
    (Instr.i2ca 0x21#8 data none).wellFormed = false := by
  simp [Instr.wellFormed, maxDataBytes, h]
theorem test_cfg_maxlen : ¬({ Config.default with maxLen := 1 } : Config).Legal := by decide
theorem test_cfg_block : ¬({ Config.default with blockSize := 0 } : Config).Legal := by decide
theorem test_cfg_floor : ¬({ Config.default with minFloor := 65536 } : Config).Legal := by decide
theorem test_cfg_round : ¬({ Config.default with maxLen := 65530 } : Config).Legal := by decide

/-! ## Decoding: words written out from R92, R101, R107, R108 -/

/-- `+I2CT=2101ff` and the line feed, character by character. -/
theorem test_decode_i2ct :
    decode (.line [0x2B#8, 0x49#8, 0x32#8, 0x43#8, 0x54#8, 0x3D#8, 0x32#8, 0x31#8, 0x30#8, 0x31#8, 0x66#8, 0x66#8, 0x0A#8]) =
      .ok (.i2ct 0x21#8 [0x01#8, 0xFF#8] none) := by decide
/-- `+i2cr=10,02#B18d`: lower-case keyword, a separator, the suffix of R326's table. -/
theorem test_decode_i2cr :
    decode (.line [0x2B#8, 0x69#8, 0x32#8, 0x63#8, 0x72#8, 0x3D#8, 0x31#8, 0x30#8, 0x2C#8, 0x30#8, 0x32#8, 0x23#8, 0x42#8,
      0x31#8, 0x38#8, 0x64#8, 0x0D#8, 0x0A#8]) = .ok (.i2cr 0x10#8 0x02#8 (some 0xB18D#16)) := by decide
/-- `+I2CA=21aB`. -/
theorem test_decode_i2ca :
    decode (.line [0x2B#8, 0x49#8, 0x32#8, 0x43#8, 0x41#8, 0x3D#8, 0x32#8, 0x31#8, 0x61#8, 0x42#8, 0x0A#8]) =
      .ok (.i2ca 0x21#8 [0xAB#8] none) := by decide
/-- `+I2CA=10`. -/
theorem test_decode_nack :
    decode (.line [0x2B#8, 0x49#8, 0x32#8, 0x43#8, 0x41#8, 0x3D#8, 0x31#8, 0x30#8, 0x0A#8]) = .ok (.nack 0x10#8 none) := by
  decide
/-- The numbered form of the NACK line: first character in the lowest bits. -/
theorem test_decode_nack_bits : decodeTableWord 72 0x0A30313D414332492B = some (.nack 0x10#8 none) := by decide
/-- A pair cut short is refused by name. -/
theorem test_decode_half :
    decode (.line [0x2B#8, 0x49#8, 0x32#8, 0x43#8, 0x54#8, 0x3D#8, 0x32#8, 0x0A#8]) = .error .badHex := by decide
/-- R90: the line is over at its line feed; a text with a carriage return behind it is no one line. -/
theorem test_decode_behind_lf :
    decode (.line [0x2B#8, 0x49#8, 0x32#8, 0x43#8, 0x54#8, 0x3D#8, 0x32#8, 0x31#8, 0x0A#8, 0x0D#8]) = .error .noLineEnd := by
  decide
theorem test_decode_lf : decodeTableWord 8 0x0A = some .feedLF := by decide
theorem test_decode_cr : decodeTableWord 8 0x0D = some .feedCR := by decide
theorem test_decode_plus : decodeTableWord 8 0x2B = some .feedPLUS := by decide
theorem test_decode_hash : decodeTableWord 8 0x23 = some .feedHASH := by decide
theorem test_decode_sep : decodeTableWord 8 0x09 = some (.feedSEP 0x09#8) := by decide
theorem test_decode_hexdigit : decodeTableWord 8 0x46 = some (.feedHEXDIGIT 0x46#8) := by decide
theorem test_decode_other : decodeTableWord 8 0x47 = some (.feedOTHER 0x47#8) := by decide
theorem test_decode_nop : decodeTableWord 24 0x000000 = some (.cmdNop 0x00#8 0x00#8) := by decide
theorem test_decode_begin : decodeTableWord 24 0x012100 = some (.cmdBegin 0x21#8 0x00#8) := by decide
theorem test_decode_beginm : decodeTableWord 24 0x020000 = some (.cmdBeginm 0x00#8 0x00#8) := by decide
theorem test_decode_end : decodeTableWord 24 0x030000 = some (.cmdEnd 0x00#8 0x00#8) := by decide
theorem test_decode_begintx : decodeTableWord 24 0x102000 = some (.cmdBegintx 0x20#8 0x00#8) := by decide
theorem test_decode_write : decodeTableWord 24 0x11AB00 = some (.cmdWrite 0xAB#8 0x00#8) := by decide
theorem test_decode_endtx : decodeTableWord 24 0x120000 = some (.cmdEndtx 0x00#8 0x00#8) := by decide
theorem test_decode_reqfrom : decodeTableWord 24 0x132104 = some (.cmdReqfrom 0x21#8 0x04#8) := by decide
theorem test_decode_read : decodeTableWord 24 0x200000 = some (.cmdRead 0x00#8 0x00#8) := by decide
theorem test_decode_peek : decodeTableWord 24 0x210000 = some (.cmdPeek 0x00#8 0x00#8) := by decide
theorem test_decode_avail : decodeTableWord 24 0x220000 = some (.cmdAvail 0x00#8 0x00#8) := by decide
theorem test_decode_cbdone : decodeTableWord 24 0x300000 = some (.cmdCbdone 0x00#8 0x00#8) := by decide
theorem test_decode_setto : decodeTableWord 24 0x400003 = some (.cmdSetto 0x00#8 0x03#8) := by decide
theorem test_decode_rdreg : decodeTableWord 24 0x411800 = some (.cmdRdreg 0x18#8 0x00#8) := by decide
theorem test_decode_reserved : decodeTableWord 24 0x7F0000 = some (.cmdReserved 0x7F#8 0x00#8 0x00#8) := by decide
theorem test_decode_tick : decode .tick = .ok .tick := by decide
theorem test_decode_engine : decode .engine = .ok .reqComplete := by decide

/-! ## States the tests start from -/

/-- The next state, if there is one. -/
def nextOf : Host.Outcome State Fault Refusal → Option State
  | .next s => some s
  | .fault _ => none
  | .refused _ => none

/-- A field of the next state. -/
def after {α : Type} (i : Instr) (s : State) (f : State → α) : Option α := (nextOf (exec i s)).map f

/-- `inbound` with the byte 0x21 alone. -/
def one21 : Buffer := { storage := [(0, 0x21#8)], length := 1, position := 0, capacity := 16 }

/-- A session at address 0x21, nothing in progress, six growths granted. -/
def idle21 : State :=
  { State.reset with ownAddress := .bus 0x21#7, grants := [true, true, true, true, true, true] }

/-- The same with the integrity layer. -/
def crc21 : State := { idle21 with cfg := { Config.default with crcEnable := true } }

/-- A session at 0x10 that has asked 0x21 for four bytes. -/
def waiting : State :=
  { idle21 with
    ownAddress := .bus 0x10#7, outboundState := .fillingWait, waitActive := true, waitTimer := 3#16, reqAddr := 0x21#8,
    reqCount := 4#8, inbound := one21 }

/-- A session at 0x10 with a transmission to 0x21 open, one byte written. -/
def sending : State :=
  { idle21 with
    ownAddress := .bus 0x10#7, outboundState := .locked, txAddr := 0x21#8,
    outbound := { storage := [(0, 0xAA#8)], length := 1, position := 0, capacity := 16 } }

/-- The Receive window of `+I2CT=21de`. -/
def receiving : State :=
  { idle21 with
    svc := .receive, inbound := { storage := [(0, 0x21#8), (1, 0xDE#8)], length := 2, position := 1, capacity := 16 } }

/-- The Request window of `+I2CR=2104`. -/
def serving : State :=
  { idle21 with
    svc := .request, svcLen := 4#8,
    inbound := { storage := [(0, 0x21#8), (1, 0x04#8)], length := 2, position := 1, capacity := 16 } }

/-- In the payload of a line of this kind, `n` payload bytes in, the digit `2` waiting for its partner. -/
def half2 (k : CommandKind) (n : Half) (s : State) : State :=
  { s with commandKind := k, frameBytes := n, scratchLen := 1, scratch := { s.scratch with c0 := 0x32#8 } }

/-- The same with a frame in flight whose first byte is 0x21. -/
def inFrame (k : CommandKind) (n : Half) : State := { half2 k n idle21 with inboundActive := true, inbound := one21 }

/-- A line of this kind at its end, all checks passed. -/
def atEnd (k : CommandKind) (n : Half) : State := { inFrame k n with scratchLen := 0, svcLen := 4#8 }

/-! ## One step each, results from the spec's worked examples -/

/-- S: `+I2CT=21de` for 0x21 (R204): one data byte. -/
theorem test_i2ct : after (.i2ct 0x21#8 [0xDE#8] none) idle21 (fun t => (t.inbound.bytes, t.events, t.svc)) =
    some ([0x21#8, 0xDE#8], [.onReceive 1#16], .receive) := by decide
theorem test_i2ct_foreign : after (.i2ct 0x30#8 [0xDE#8] none) idle21 (fun t => (t.inbound.bytes, t.events, t.svc)) =
    some ([], [], .none) := by decide
/-- `+I2CR=2104` (R205). -/
theorem test_i2cr : after (.i2cr 0x21#8 0x04#8 none) idle21 (fun t => (t.svcLen, t.events, t.inbound.position)) =
    some (4#8, [.onRequest], 1) := by decide
/-- `+I2CR=1002` during the wait: the NACK `+I2CA=10`, line feed, flush (R206). -/
theorem test_i2cr_wait : after (.i2cr 0x10#8 0x02#8 none) waiting (fun t => (t.tx, t.outboundState)) =
    some ([.tx 0x2B#8, .tx 0x49#8, .tx 0x32#8, .tx 0x43#8, .tx 0x41#8, .tx 0x3D#8, .tx 0x31#8, .tx 0x30#8, .tx 0x0A#8,
      .flush], .fillingWait) := by decide
/-- `+I2CA=21aabb` awaited (R175, R207). -/
theorem test_i2ca : after (.i2ca 0x21#8 [0xAA#8, 0xBB#8] none) waiting (fun t => (t.inbound.bytes, t.outboundState)) =
    some ([0x21#8, 0xAA#8, 0xBB#8], .filled) := by decide
theorem test_i2ca_other : after (.i2ca 0x22#8 [0xAA#8] none) waiting (fun t => (t.inbound.length, t.outboundState)) =
    some (0, .idle) := by decide
/-- A NACK is a complete response without data (R207, R304(a)). -/
theorem test_nack : after (.nack 0x21#8 none) waiting (fun t => (t.inbound.bytes, t.outboundState)) =
    some ([0x21#8], .filled) := by decide
/-- An empty line does nothing (R201); `+I2C` and a line feed leave the parser ready. -/
theorem test_feedLF : after .feedLF { idle21 with scratchLen := 4 } (fun t => (t.commandKind, t.scratchLen)) =
    some (.none, 0) := by decide
theorem test_feedCR : after .feedCR (half2 .masterTransmit 0#16 idle21) (fun t => t.scratchLen) = some 1 := by decide
theorem test_feedPLUS : after .feedPLUS idle21 (fun t => (t.scratchLen, t.scratch.c0)) = some (1, 0x2B#8) := by decide
/-- `+` after the header is BadChar (R180). -/
theorem test_feedPLUS_payload : after .feedPLUS (half2 .masterTransmit 0#16 idle21) (fun t => t.commandKind) =
    some .discard := by decide
theorem test_feedHASH : after .feedHASH { crc21 with commandKind := .masterTransmit } (fun t => t.inCrc) = some true := by
  decide
theorem test_feedSEP : after (.feedSEP 0x2C#8) (half2 .masterTransmit 0#16 idle21) (fun t => t.commandKind) =
    some .discard := by decide
/-- The pair `21`: the payload byte 0x21, accepted by 0x21 (R172). -/
theorem test_feedHEXDIGIT : after (.feedHEXDIGIT 0x31#8) (half2 .masterTransmit 0#16 idle21)
    (fun t => (t.inbound.bytes, t.inboundActive, t.frameBytes)) = some ([0x21#8], true, 1#16) := by decide
/-- First suffix digits: 0x9BA times 16 plus 1 is 0x9BA1 (R179). -/
theorem test_feedHEXDIGIT_sum : after (.feedHEXDIGIT 0x31#8)
    { crc21 with commandKind := .masterTransmit, inCrc := true, crcDigits := 3, crcRx := 0x09BA#16 }
    (fun t => (t.crcRx, t.crcDigits)) = some (0x9BA1#16, 4) := by decide
/-- The sixth character of `+i2cT=` (R166). -/
theorem test_feedOTHER : after (.feedOTHER 0x3D#8)
    { idle21 with scratchLen := 5, scratch := { c0 := 0x2B#8, c1 := 0x69#8, c2 := 0x32#8, c3 := 0x63#8, c4 := 0x54#8, c5 := 0#8 } }
    (fun t => (t.commandKind, t.scratchLen)) = some (.masterTransmit, 0) := by decide
theorem test_nop : after (.cmdNop 0#8 0#8) idle21 (fun t => t.responses.map Response.word) = some [0x000000#24] := by decide
theorem test_begin : after (.cmdBegin 0x21#8 0#8) State.reset (fun t => t.ownAddress.code) = some 0x21#8 := by decide
theorem test_begin_again : after (.cmdBegin 0x80#8 0#8) idle21 (fun t => t.responses) = some [⟨.alreadyBegun, 0#16⟩] := by
  decide
theorem test_beginm : after (.cmdBeginm 0#8 0#8) State.reset (fun t => t.ownAddress.code) = some 0xFE#8 := by decide
/-- R253's example: END ends a wait with ReqDone Aborted. -/
theorem test_end : after (.cmdEnd 0#8 0#8) waiting (fun t => (t.events.map Event.word, t.inbound.capacity, t.waitActive)) =
    some ([0x030F0000#32], 0, false) := by decide
theorem test_begintx : after (.cmdBegintx 0x20#8 0#8) idle21 (fun t => (t.txAddr, t.outboundState)) =
    some (0x20#8, .locked) := by decide
theorem test_write : after (.cmdWrite 0xBB#8 0#8) sending (fun t => t.outbound.bytes) = some [0xAA#8, 0xBB#8] := by decide
/-- `+I2CT=21aa`. -/
theorem test_endtx : after (.cmdEndtx 0#8 0#8) sending (fun t => (t.tx.length, t.outbound.length, t.outboundState)) =
    some (12, 0, .idle) := by decide
theorem test_endtx_own : after (.cmdEndtx 0#8 0#8) { sending with txAddr := 0x10#8 } (fun t => (t.tx, t.responses)) =
    some ([], [⟨.ownAddress, 0#16⟩]) := by decide
theorem test_reqfrom : after (.cmdReqfrom 0x22#8 4#8) idle21 (fun t => (t.inbound.bytes, t.waitTimer, t.tx.length)) =
    some ([0x22#8], 1000#16, 12) := by decide
theorem test_read : after (.cmdRead 0#8 0#8) receiving (fun t => (t.responses, t.inbound.position)) =
    some ([⟨.ok, 0xDE#16⟩], 2) := by decide
theorem test_peek : after (.cmdPeek 0#8 0#8) receiving (fun t => (t.responses, t.inbound.position)) =
    some ([⟨.ok, 0xDE#16⟩], 1) := by decide
theorem test_avail : after (.cmdAvail 0#8 0#8) receiving (fun t => t.responses) = some [⟨.ok, 1#16⟩] := by decide
theorem test_cbdone : after (.cmdCbdone 0#8 0#8) receiving (fun t => (t.svc, t.inbound.length)) = some (.none, 0) := by decide
/-- Nothing written, four bytes asked: `+I2CA=21ffffffff` (R259(a)). -/
theorem test_cbdone_pad : after (.cmdCbdone 0#8 0#8) serving (fun t => (t.svc, t.tx.length, t.outbound.length)) =
    some (.none, 18, 0) := by decide
theorem test_setto : after (.cmdSetto 0#8 3#8) idle21 (fun t => t.timeout) = some 3#16 := by decide
theorem test_rdreg : after (.cmdRdreg 1#8 0#8) waiting (fun t => t.responses) = some [⟨.ok, 0x0090#16⟩] := by decide
theorem test_rdreg_bad : after (.cmdRdreg 24#8 0#8) idle21 (fun t => t.responses) = some [⟨.badRegister, 0#16⟩] := by decide
theorem test_reserved : after (.cmdReserved 0x7F#8 0#8 0#8) idle21 (fun t => t.responses.map Response.word) =
    some [0x100000#24] := by decide
theorem test_tick : after .tick waiting (fun t => t.waitTimer) = some 2#16 := by decide
theorem test_reqComplete : after .reqComplete { waiting with outboundState := .filled }
    (fun t => (t.events.map Event.word, t.inbound.position)) = some ([0x03000004#32], 1) := by decide
theorem test_reqComplete_timeout : after .reqComplete { waiting with waitTimer := 0#16 }
    (fun t => (t.events.map Event.word, t.inbound.length)) = some ([0x030E0000#32], 0) := by decide
/-- A run from reset: with BEGIN at the command port the step opens the session. -/
theorem test_step_begin : (nextOf (step (State.reset.withFetchWord 24 0x012100))).map (fun t => t.ownAddress.code) =
    some 0x21#8 := by decide

/-! ## Witnesses: states and operands that meet the hypotheses of a statement, clause by clause -/

theorem inv_idle21 : idle21.Inv := ⟨by decide, by decide, by decide, by decide, by decide⟩
theorem inv_crc21 : crc21.Inv := ⟨by decide, by decide, by decide, by decide, by decide⟩
theorem inv_waiting : waiting.Inv := ⟨by decide, by decide, by decide, by decide, by decide⟩
theorem inv_sending : sending.Inv := ⟨by decide, by decide, by decide, by decide, by decide⟩
theorem inv_receiving : receiving.Inv := ⟨by decide, by decide, by decide, by decide, by decide⟩
theorem inv_serving : serving.Inv := ⟨by decide, by decide, by decide, by decide, by decide⟩
theorem inv_inFrame : (inFrame .masterTransmit 1#16).Inv := ⟨by decide, by decide, by decide, by decide, by decide⟩

/-- The digits `2` and `2` are the byte 0x22, `2` and `1` the byte 0x21, wherever the port takes them. -/
theorem second (s : State) (b : Byte) (d : BitVec 4) (h : hexVal? b = some d) (h1 : s.svc = .none)
    (h2 : s.commandKind.isPayload = true) (h3 : s.inCrc = false) (h4 : s.scratchLen ≠ 0) (h5 : s.scratch.c0 = 0x32#8)
    (v : Byte) (hv : v.toNat = 32 + d.toNat) : SecondDigit s b v :=
  ⟨h1, h2, h3, h4, 2#4, d, by rw [h5]; decide, h, hv⟩

theorem witness_DecodeEncode : (Instr.i2ct 0x21#8 [] none).wellFormed = true ∧ (Instr.i2cr 0x21#8 1#8 none).wellFormed = true ∧
    (Instr.feedSEP 0x20#8).wellFormed = true ∧ (Instr.cmdReserved 0x04#8 0#8 0#8).wellFormed = true := by decide

theorem witness_EncodeDecode :
    decode (.line [0x2B#8, 0x49#8, 0x32#8, 0x43#8, 0x54#8, 0x3D#8, 0x32#8, 0x31#8, 0x0A#8]) = .ok (.i2ct 0x21#8 [] none) := by
  decide

/-- `+i2ct= 21` and the line feed, for an idle block. -/
theorem witness_SpellingsAgree : ParserReady idle21 ∧
    decode (.line [0x2B#8, 0x69#8, 0x32#8, 0x63#8, 0x74#8, 0x3D#8, 0x20#8, 0x32#8, 0x31#8, 0x0D#8, 0x0A#8]) =
      .ok (.i2ct 0x21#8 [] none) := by decide

theorem witness_LineIsItsBytes : idle21.svc = .none ∧ encode (.nack 0x10#8 none) =
    .line [0x2B#8, 0x49#8, 0x32#8, 0x43#8, 0x41#8, 0x3D#8, 0x31#8, 0x30#8, 0x0A#8] := by decide

/-- A line ready at the RX port: `+I2CA=10`. -/
def nackText : List Byte := [0x2B#8, 0x49#8, 0x32#8, 0x43#8, 0x41#8, 0x3D#8, 0x31#8, 0x30#8, 0x0A#8]

/-- All ports filled, this agent's turn. -/
def turn (g : Agent) : State := { idle21 with agenda := [g], rx := nackText, cmds := [0x012100#24] }

theorem witness_StepRunsDecoded :
    (turn .rx).agenda = .rx :: [] ∧ (turn .rx).rx = 0x2B#8 :: nackText.tail ∧ decode (.byte 0x2B#8) = .ok .feedPLUS ∧
    (turn .rxLine).agenda = .rxLine :: [] ∧ (turn .rxLine).rx = nackText ++ [] ∧
    decode (.line nackText) = .ok (.nack 0x10#8 none) ∧ encode (.nack 0x10#8 none) = .line nackText ∧
    (turn .host).agenda = .host :: [] ∧ (turn .host).cmds = 0x012100#24 :: [] ∧
    decode (.command 0x012100#24) = .ok (.cmdBegin 0x21#8 0#8) ∧
    (turn .tick).agenda = .tick :: [] ∧ (turn .engine).agenda = .engine :: [] ∧ idle21.agenda = [] ∧
    { turn .rx with rx := [] }.agenda = .rx :: [] ∧ { turn .host with cmds := [] }.agenda = .host :: [] := by decide

theorem witness_RoundUpLeast : 1 ≤ Config.default.blockSize ∧ 16 % Config.default.blockSize = 0 ∧
    0 % Config.default.blockSize = 0 ∧ 32 % Config.default.blockSize = 0 ∧ 17 ≤ 32 := by decide

theorem witness_Hysteresis : 1 ≤ idle21.cfg.blockSize ∧ idle21.buf .inbound = Buffer.empty ∧
    idle21.buf .outbound = Buffer.empty ∧ [0x41#8] ≠ ([] : List Byte) ∧ nextGrant idle21 = true ∧
    0 < (bufWrite .inbound 0x41#8 idle21).2.inbound.length ∧ 0 < (bufWrite .outbound 0x41#8 idle21).2.outbound.length := by
  decide

theorem witness_ClearPolicy : Config.default.Legal ∧
    Buffer.Sound Config.default { storage := [(0, 1#8)], length := 1, position := 0, capacity := 32 } ∧
    (32 : Nat) ≠ 0 ∧ 1 + Config.default.minFloor < 32 ∧
    Buffer.Sound Config.default one21 ∧ one21.capacity ≤ one21.length + Config.default.minFloor ∧
    Buffer.Sound Config.default Buffer.empty := by decide

theorem witness_FeedStalled : receiving.svc ≠ .none ∧ encode .feedLF = .byte charLF ∧
    serving.svc ≠ .none ∧ encode (.feedOTHER 0#8) = .byte 0#8 ∧
    encode (.nack 0x10#8 none) = .line [0x2B#8, 0x49#8, 0x32#8, 0x43#8, 0x41#8, 0x3D#8, 0x31#8, 0x30#8, 0x0A#8] := by decide

theorem witness_IgnoredBytes : idle21.svc = .none ∧ { idle21 with commandKind := .discard }.commandKind = .discard ∧
    Instr.feedPLUS.wellFormed = true ∧ Instr.feedHASH.wellFormed = true ∧ (Instr.feedSEP 0x09#8).wellFormed = true ∧
    (Instr.feedHEXDIGIT 0x30#8).wellFormed = true ∧ (Instr.feedOTHER 0xFF#8).wellFormed = true := by decide

theorem witness_BadStart : idle21.svc = .none ∧ idle21.commandKind = .none ∧ idle21.scratchLen = 0 ∧
    Instr.feedHASH.wellFormed = true ∧ (Instr.feedSEP 0x20#8).wellFormed = true ∧
    (Instr.feedHEXDIGIT 0x66#8).wellFormed = true ∧ (Instr.feedOTHER 0x00#8).wellFormed = true ∧
    waiting.svc = .none ∧ waiting.commandKind = .none ∧ waiting.scratchLen = 0 ∧ awaiting waiting = true := by decide

theorem witness_HeaderCollected : Instr.feedPLUS.wellFormed = true ∧ idle21.svc = .none ∧ idle21.commandKind = .none ∧
    idle21.scratchLen.val < 5 ∧ (1 : Fin 7).val = idle21.scratchLen.val + 1 ∧
    (Instr.feedOTHER 0x54#8).wellFormed = true ∧ (Instr.feedHEXDIGIT 0x32#8).wellFormed = true ∧
    (Instr.feedSEP 0x2C#8).wellFormed = true ∧ Instr.feedHASH.wellFormed = true ∧
    { idle21 with scratchLen := 4 }.scratchLen.val < 5 ∧ { idle21 with scratchLen := 4 }.scratchLen ≠ 0 ∧
    (5 : Fin 7).val = { idle21 with scratchLen := 4 }.scratchLen.val + 1 := by decide

/-- `+i2CR=` is a header, `+I2CX=` is none. -/
theorem witness_HeaderMatched : ParserReady idle21 ∧
    [0x2B#8, 0x69#8, 0x32#8, 0x43#8, 0x52#8, 0x3D#8].length = 6 ∧
    [0x2B#8, 0x69#8, 0x32#8, 0x43#8, 0x52#8, 0x3D#8].map upper = header .i2cr ∧
    [0x2B#8, 0x49#8, 0x32#8, 0x43#8, 0x58#8, 0x3D#8].head? = some charPlus ∧
    charLF ∉ [0x2B#8, 0x49#8, 0x32#8, 0x43#8, 0x58#8, 0x3D#8] ∧ charCR ∉ [0x2B#8, 0x49#8, 0x32#8, 0x43#8, 0x58#8, 0x3D#8] ∧
    [0x2B#8, 0x49#8, 0x32#8, 0x43#8, 0x58#8, 0x3D#8].map upper ≠ header .i2ct ∧
    [0x2B#8, 0x49#8, 0x32#8, 0x43#8, 0x58#8, 0x3D#8].map upper ≠ header .i2cr ∧
    [0x2B#8, 0x49#8, 0x32#8, 0x43#8, 0x58#8, 0x3D#8].map upper ≠ header .i2ca := by decide

theorem witness_DigitPairs :
    (half2 .masterTransmit 0#16 idle21).svc = .none ∧ (half2 .masterTransmit 0#16 idle21).commandKind.isPayload = true ∧
    (half2 .masterTransmit 0#16 idle21).inCrc = false ∧ classOf 0x66#8 = .hexDigit ∧
    (half2 .masterTransmit 0#16 idle21).scratchLen ≠ 0 ∧
    hexVal? (half2 .masterTransmit 0#16 idle21).scratch.c0 = some 2#4 ∧ hexVal? 0x66#8 = some 15#4 ∧
    { idle21 with commandKind := .masterTransmit }.commandKind.isPayload = true ∧
    { idle21 with commandKind := .masterTransmit }.scratchLen = 0 := by decide

/-- The byte 0x22 (digits `2`, `2`) is another block's address, 0x21 (digits `2`, `1`) is this one's. -/
theorem witness_AddressRefused :
    SecondDigit (half2 .masterTransmit 0#16 idle21) 0x32#8 0x22#8 ∧
    addrMatch (half2 .masterTransmit 0#16 idle21) 0x22#8 = false ∧
    SecondDigit (half2 .masterTransmit 0#16 { waiting with ownAddress := .bus 0x21#7 }) 0x31#8 0x21#8 ∧
    addrMatch (half2 .masterTransmit 0#16 { waiting with ownAddress := .bus 0x21#7 }) 0x21#8 = true ∧
    waiting.outboundState ≠ .idle ∧ waiting.waitActive = true ∧
    SecondDigit (half2 .masterRequest 0#16 { waiting with ownAddress := .bus 0x21#7 }) 0x31#8 0x21#8 ∧
    addrMatch (half2 .masterRequest 0#16 { waiting with ownAddress := .bus 0x21#7 }) 0x21#8 = true ∧
    SecondDigit (half2 .masterRequest 0#16 { sending with ownAddress := .bus 0x21#7 }) 0x31#8 0x21#8 ∧
    addrMatch (half2 .masterRequest 0#16 { sending with ownAddress := .bus 0x21#7 }) 0x21#8 = true ∧
    sending.waitActive = false ∧ sending.outboundState ≠ .idle :=
  ⟨second _ _ 2#4 (by decide) rfl rfl rfl (by decide) rfl _ rfl, by decide,
    second _ _ 1#4 (by decide) rfl rfl rfl (by decide) rfl _ rfl, by decide, by decide, by decide,
    second _ _ 1#4 (by decide) rfl rfl rfl (by decide) rfl _ rfl, by decide,
    second _ _ 1#4 (by decide) rfl rfl rfl (by decide) rfl _ rfl, by decide, by decide, by decide⟩

theorem witness_AddressAccepted :
    SecondDigit (half2 .masterTransmit 0#16 idle21) 0x31#8 0x21#8 ∧
    SecondDigit (half2 .masterRequest 0#16 idle21) 0x31#8 0x21#8 ∧
    (half2 .masterTransmit 0#16 idle21).frameBytes = 0#16 ∧ addrMatch (half2 .masterTransmit 0#16 idle21) 0x21#8 = true ∧
    idle21.outboundState = .idle ∧ idle21.waitActive = false ∧ idle21.cfg.Legal ∧ idle21.inbound.Sound idle21.cfg ∧
    GrantsFor 1 (half2 .masterTransmit 0#16 idle21) ∧
    idle21.inbound.capacity = 0 ∧ idle21.cfg.allocCanFail = true ∧ { idle21 with grants := [false] }.grants = false :: [] :=
  ⟨second _ _ 1#4 (by decide) rfl rfl rfl (by decide) rfl _ rfl,
    second _ _ 1#4 (by decide) rfl rfl rfl (by decide) rfl _ rfl, by decide⟩

/-- The three kinds of frame in flight; with `MAX_LEN = 2` the byte is the last that fits. -/
theorem witness_DataByteAppended :
    SecondDigit (inFrame .masterTransmit 1#16) 0x32#8 0x22#8 ∧
    SecondDigit (inFrame .masterRequest 1#16) 0x32#8 0x22#8 ∧
    SecondDigit { inFrame .slaveResponse 1#16 with outboundState := .filling } 0x32#8 0x22#8 ∧
    (inFrame .masterTransmit 1#16).frameBytes ≠ 0#16 ∧ (inFrame .slaveResponse 1#16).inboundActive = true ∧
    (inFrame .masterTransmit 1#16).cfg.Legal ∧ (inFrame .masterTransmit 1#16).inbound.Sound Config.default ∧
    ({ Config.default with maxLen := 2 } : Config).Legal ∧ one21.Sound { Config.default with maxLen := 2 } ∧
    one21.length < 2 ∧ GrantsFor 1 (inFrame .masterTransmit 1#16) ∧ ¬one21.NeedsGrowth ∧
    ({ one21 with capacity := 1 } : Buffer).NeedsGrowth ∧
    ({ one21 with capacity := 1 } : Buffer).Sound { Config.default with blockSize := 1, minFloor := 0 } :=
  ⟨second _ _ 2#4 (by decide) rfl rfl rfl (by decide) rfl _ rfl,
    second _ _ 2#4 (by decide) rfl rfl rfl (by decide) rfl _ rfl,
    second _ _ 2#4 (by decide) rfl rfl rfl (by decide) rfl _ rfl, by decide⟩

/-- `inbound` as full as `MAX_LEN = 2` allows. -/
def full2 : State :=
  { inFrame .masterTransmit 2#16 with
    cfg := { Config.default with maxLen := 2, blockSize := 1, minFloor := 0 }, grants := [false],
    inbound := { storage := [(0, 0x21#8), (1, 0x01#8)], length := 2, position := 0, capacity := 2 } }

theorem witness_BytesTurnedAway :
    SecondDigit full2 0x32#8 0x22#8 ∧ full2.commandKind = .masterTransmit ∧ full2.frameBytes ≠ 0#16 ∧
    full2.cfg.maxLen ≤ full2.inbound.length ∧
    SecondDigit { full2 with commandKind := .masterRequest, frameBytes := 1#16 } 0x32#8 0x22#8 ∧
    SecondDigit { full2 with commandKind := .slaveResponse, outboundState := .filling } 0x32#8 0x22#8 ∧
    full2.inboundActive = true ∧
    SecondDigit { full2 with cfg := { full2.cfg with maxLen := 3 } } 0x32#8 0x22#8 ∧
    full2.inbound.length < 3 ∧ full2.inbound.capacity = full2.inbound.length ∧ full2.cfg.allocCanFail = true ∧
    full2.grants = false :: [] ∧
    SecondDigit (half2 .sendDiscarded 1#16 waiting) 0x32#8 0x22#8 ∧
    (half2 .sendDiscarded 1#16 waiting).frameBytes = 1#16 ∧
    SecondDigit (half2 .sendDiscarded 2#16 waiting) 0x32#8 0x22#8 ∧
    SecondDigit (inFrame .masterRequest 2#16) 0x32#8 0x22#8 ∧ 2 ≤ (inFrame .masterRequest 2#16).frameBytes.toNat :=
  ⟨second _ _ 2#4 (by decide) rfl rfl rfl (by decide) rfl _ rfl, by decide, by decide, by decide,
    second _ _ 2#4 (by decide) rfl rfl rfl (by decide) rfl _ rfl,
    second _ _ 2#4 (by decide) rfl rfl rfl (by decide) rfl _ rfl, by decide,
    second _ _ 2#4 (by decide) rfl rfl rfl (by decide) rfl _ rfl, by decide, by decide, by decide, by decide,
    second _ _ 2#4 (by decide) rfl rfl rfl (by decide) rfl _ rfl, by decide,
    second _ _ 2#4 (by decide) rfl rfl rfl (by decide) rfl _ rfl,
    second _ _ 2#4 (by decide) rfl rfl rfl (by decide) rfl _ rfl, by decide⟩

theorem witness_ResponseAddress :
    SecondDigit (half2 .slaveResponse 0#16 waiting) 0x31#8 0x21#8 ∧ waiting.outboundState = .fillingWait ∧
    waiting.inbound.read 0 = some 0x21#8 ∧
    SecondDigit (half2 .slaveResponse 0#16 waiting) 0x32#8 0x22#8 ∧ ¬(waiting.inbound.read 0 = some 0x22#8) ∧
    SecondDigit (half2 .slaveResponse 1#16 idle21) 0x32#8 0x22#8 ∧ ¬(idle21.outboundState = .filling) ∧
    (half2 .slaveResponse 1#16 idle21).frameBytes ≠ 0#16 :=
  ⟨second _ _ 1#4 (by decide) rfl rfl rfl (by decide) rfl _ rfl, by decide, by decide,
    second _ _ 2#4 (by decide) rfl rfl rfl (by decide) rfl _ rfl, by decide,
    second _ _ 2#4 (by decide) rfl rfl rfl (by decide) rfl _ rfl, by decide, by decide⟩

/-- In the suffix of a line, `n` digits in. -/
def inSuffix (n : Fin 5) : State := { crc21 with commandKind := .masterTransmit, inCrc := true, crcDigits := n }

theorem witness_PayloadCharacters :
    (half2 .masterTransmit 0#16 idle21).svc = .none ∧ (half2 .masterTransmit 0#16 idle21).commandKind.isPayload = true ∧
    (half2 .masterTransmit 0#16 idle21).inCrc = false ∧ classOf 0x2C#8 = .sep ∧ classOf 0x3D#8 = .other ∧
    (half2 .masterTransmit 0#16 idle21).scratchLen ≠ 0 ∧ (half2 .masterTransmit 0#16 idle21).cfg.crcEnable = false ∧
    { crc21 with commandKind := .masterTransmit }.scratchLen = 0 ∧ crc21.cfg.crcEnable = true ∧
    (half2 .masterTransmit 0#16 crc21).scratchLen ≠ 0 ∧
    (inSuffix 3).svc = .none ∧ (inSuffix 3).commandKind.isPayload = true ∧ (inSuffix 3).inCrc = true ∧
    hexVal? 0x31#8 = some 1#4 ∧ (inSuffix 3).crcDigits.val < 4 ∧ (4 : Fin 5).val = (inSuffix 3).crcDigits.val + 1 ∧
    classOf 0x31#8 = .hexDigit ∧ (inSuffix 4).crcDigits = 4 := by decide

theorem witness_LineEndPhase : (inFrame .masterTransmit 1#16).Inv ∧ (inFrame .masterTransmit 1#16).svc = .none :=
  ⟨inv_inFrame, rfl⟩

theorem witness_LineEndOutsideFrame : idle21.svc = .none ∧ idle21.inCrc = false ∧ idle21.crcDigits = 0 ∧
    idle21.commandKind = .none ∧ idle21.scratchLen = 0 ∧ { idle21 with scratchLen := 1 }.scratchLen ≠ 0 ∧
    { idle21 with commandKind := .discard }.commandKind = .discard := by decide

/-- At the end of a line with the integrity layer: this suffix received. -/
def atSuffix (inCrc : Bool) (n : Fin 5) (v : Half) : State :=
  { atEnd .masterTransmit 1#16 with cfg := crc21.cfg, inCrc := inCrc, crcDigits := n, crcRx := v }

theorem witness_FrameRejected :
    (inFrame .masterTransmit 1#16).svc = .none ∧ (inFrame .masterTransmit 1#16).commandKind.isPayload = true ∧
    (inFrame .masterTransmit 1#16).scratchLen ≠ 0 ∧
    (atEnd .slaveResponse 0#16).scratchLen = 0 ∧ (atEnd .slaveResponse 0#16).frameBytes = 0#16 ∧
    (atSuffix false 0 0#16).scratchLen = 0 ∧ (atSuffix false 0 0#16).frameBytes ≠ 0#16 ∧
    (atSuffix false 0 0#16).cfg.crcEnable = true ∧ (atSuffix false 0 0#16).inCrc = false ∧
    (atSuffix true 3 0#16).inCrc = true ∧ (atSuffix true 3 0#16).crcDigits ≠ 4 ∧
    (atSuffix true 4 0#16).crcDigits = 4 ∧ (atSuffix true 4 0#16).crcRx ≠ (atSuffix true 4 0#16).crcAcc ∧
    FrameOk (atEnd .masterRequest 1#16) ∧ (atEnd .masterRequest 1#16).frameBytes ≠ 2#16 ∧
    FrameOk { atEnd .sendDiscarded 2#16 with svcLen := 0#8 } ∧
    FrameOk { atEnd .masterRequest 2#16 with outboundState := .locked } ∧ (atEnd .masterRequest 2#16).svcLen ≠ 0#8 ∧
    { atEnd .masterRequest 2#16 with outboundState := .locked }.outboundState ≠ .idle := by decide

theorem witness_CallbackOpened :
    (atEnd .masterTransmit 1#16).svc = .none ∧ FrameOk (atEnd .masterTransmit 1#16) ∧
    FrameOk (atSuffix true 4 0xFFFF#16) ∧ FrameOk (atEnd .masterRequest 2#16) ∧
    (atEnd .masterRequest 2#16).frameBytes = 2#16 ∧ (atEnd .masterRequest 2#16).svcLen ≠ 0#8 ∧
    (atEnd .masterRequest 2#16).outboundState = .idle := by decide

theorem witness_LineEndInWait :
    FrameOk (atEnd .sendDiscarded 2#16) ∧ (atEnd .sendDiscarded 2#16).svc = .none ∧
    (atEnd .sendDiscarded 2#16).frameBytes = 2#16 ∧ (atEnd .sendDiscarded 2#16).svcLen ≠ 0#8 ∧
    FrameOk (atEnd .slaveResponse 1#16) := by decide

theorem witness_TransmitLineDelivered : idle21.Inv ∧ crc21.Inv ∧ ParserReady idle21 ∧ ParserReady crc21 ∧
    addrMatch idle21 0x21#8 = true ∧ addrMatch crc21 0x21#8 = true ∧ idle21.outboundState = .idle ∧
    idle21.waitActive = false ∧ [0xDE#8, 0xAD#8].length + 1 ≤ idle21.cfg.maxLen ∧ GrantsFor 3 idle21 ∧ GrantsFor 3 crc21 :=
  ⟨inv_idle21, inv_crc21, by decide⟩

theorem witness_RequestLineServed : idle21.Inv ∧ ParserReady idle21 ∧ addrMatch idle21 0x21#8 = true ∧ 1#8 ≠ 0#8 ∧
    idle21.outboundState = .idle ∧ idle21.waitActive = false ∧ GrantsFor 2 idle21 ∧
    waiting.Inv ∧ ParserReady waiting ∧ addrMatch waiting 0x10#8 = true ∧ waiting.waitActive = true :=
  ⟨inv_idle21, by decide, by decide, by decide, by decide, by decide, by decide, inv_waiting, by decide⟩

theorem witness_ResponseLineAwaited : waiting.Inv ∧ ParserReady waiting ∧ waiting.outboundState = .fillingWait ∧
    waiting.inbound.bytes = [0x21#8] ∧ [0xAA#8].length + 1 ≤ waiting.cfg.maxLen ∧ GrantsFor 1 waiting ∧
    GrantsFor 0 waiting ∧ [0xAA#8] ≠ ([] : List Byte) :=
  ⟨inv_waiting, by decide⟩

/-- The wait of a block with the integrity layer. -/
def waitingCrc : State := { waiting with cfg := crc21.cfg }

theorem inv_waitingCrc : waitingCrc.Inv := ⟨by decide, by decide, by decide, by decide, by decide⟩

theorem witness_WrongSumDiscarded : crc21.Inv ∧ ParserReady crc21 ∧ crc21.cfg.crcEnable = true ∧
    encode (.i2ct 0x21#8 [] none) = .line (Encode.line .i2ct [0x21#8] none) ∧
    none ≠ some (frameSum crc21.cfg [0x21#8]) ∧ some 0x587E#16 ≠ some (frameSum crc21.cfg [0x21#8]) ∧
    waitingCrc.Inv ∧ ParserReady waitingCrc ∧ waitingCrc.cfg.crcEnable = true ∧ awaiting waitingCrc = true ∧
    encode (.nack 0x21#8 none) = .line (Encode.line .i2ca [0x21#8] none) :=
  ⟨inv_crc21, by decide, by decide, by decide, by decide, by decide, inv_waitingCrc, by decide⟩

theorem witness_RoundTrip : sending.Inv ∧ idle21.Inv ∧ ParserReady idle21 ∧ sending.outboundState = .locked ∧
    sending.txAddr.toNat ≤ 0x7F ∧ sending.txAddr ≠ sending.ownAddress.code ∧ addrMatch idle21 sending.txAddr = true ∧
    idle21.outboundState = .idle ∧ idle21.waitActive = false ∧ sending.cfg.crcEnable = idle21.cfg.crcEnable ∧
    sending.cfg.crcFunction = idle21.cfg.crcFunction ∧ sending.outbound.length + 1 ≤ idle21.cfg.maxLen ∧
    GrantsFor 2 idle21 :=
  ⟨inv_sending, inv_idle21, by decide⟩

theorem witness_EmittedLine : Config.default.crcEnable = false := by decide

theorem witness_OutputSequences : (nextOf (exec (.cmdEndtx 0#8 0#8) sending)).isSome = true := by decide

/-- One operation of each kind that moves a register of the list. -/
theorem witness_RegisterWriters :
    after (.cmdBegin 0x21#8 0#8) State.reset (fun t => decide (t.ownAddress ≠ State.reset.ownAddress)) = some true ∧
    after (.cmdSetto 0#8 3#8) idle21 (fun t => decide (t.timeout ≠ idle21.timeout)) = some true ∧
    after .reqComplete { waiting with waitTimer := 0#16 } (fun t => decide (t.resultStatus ≠ waiting.resultStatus)) = some true ∧
    after (.cmdBegintx 0x20#8 0#8) idle21 (fun t => decide (t.txAddr ≠ idle21.txAddr)) = some true ∧
    after (.cmdReqfrom 0x22#8 4#8) idle21 (fun t => decide (t.reqAddr ≠ idle21.reqAddr ∧ t.waitActive ≠ idle21.waitActive)) =
      some true ∧
    after .tick waiting (fun t => decide (t.waitTimer ≠ waiting.waitTimer)) = some true ∧
    after .feedLF (atEnd .masterTransmit 1#16) (fun t => decide (t.svc ≠ .none)) = some true ∧
    after (.cmdWrite 1#8 0#8) sending (fun t => decide (t.outbound ≠ sending.outbound ∧
      sending.outbound.length < t.outbound.length)) = some true ∧
    after (.feedHEXDIGIT 0x31#8) (half2 .masterTransmit 0#16 idle21) (fun t => decide (t.inboundActive = true ∧
      t.scratchLen = 0 ∧ t.frameBytes ≠ 0#16 ∧ idle21.inbound.length < t.inbound.length)) = some true ∧
    after .feedPLUS idle21 (fun t => decide (t.scratch ≠ idle21.scratch)) = some true ∧
    after (.cmdBegintx 0x20#8 0#8) idle21 (fun t => decide (t.outboundState ≠ idle21.outboundState)) = some true ∧
    after (.cmdRead 0#8 0#8) receiving (fun t => decide (t.inbound ≠ receiving.inbound)) = some true := by decide

theorem witness_EventCauses : Instr.feedLF.wellFormed = true ∧ Instr.reqComplete.wellFormed = true ∧
    after .feedLF (atEnd .masterTransmit 1#16) (fun t => decide (t.events = idle21.events ++ [.onReceive 0#16])) = some true ∧
    after .feedLF (atEnd .masterRequest 2#16) (fun t => decide (t.events = idle21.events ++ [.onRequest])) = some true ∧
    after .reqComplete { waiting with waitTimer := 0#16 }
      (fun t => decide (t.events = waiting.events ++ [.reqDone .timeout 0#16])) = some true := by decide

theorem witness_OneResponse : (Instr.cmdEndtx 0#8 0#8).isCommand = true ∧ Instr.tick.isCommand = false ∧
    (nextOf (exec .tick waiting)).isSome = true ∧
    after (.cmdEndtx 0#8 0#8) idle21 (fun t => t.responses.map Response.status) = some [.endWithoutBegin] := by decide

theorem witness_DiagInert : (nextOf (exec .feedLF (inFrame .masterTransmit 1#16))).isSome = true ∧
    (match exec .feedPLUS { idle21 with scratchLen := 6 } with | .fault f => decide (f = .scratchOverrun) | _ => false) = true := by
  decide

theorem witness_StepKeepsInv : idle21.Inv ∧ (nextOf (step idle21)).isSome = true := ⟨inv_idle21, by decide⟩

theorem witness_NothingStops : receiving.Inv ∧ serving.Inv ∧ waiting.Inv := ⟨inv_receiving, inv_serving, inv_waiting⟩

theorem witness_StorageCanonical : receiving.inbound.storage.wf ∧ receiving.outbound.storage.wf ∧
    (nextOf (step receiving)).isSome = true := by decide

/-- A slave-only instance at 0x21. -/
def slave21 : State := { idle21 with cfg := { Config.default with roleMaster := false } }

theorem witness_SlaveOnly : slave21.cfg.roleMaster = false ∧ slave21.Inv ∧ ParserReady slave21 :=
  ⟨rfl, ⟨by decide, by decide, by decide, by decide, by decide⟩, by decide⟩

theorem witness_SessionOpened : idle21.ownAddress ≠ .uninitialized ∧ State.reset.ownAddress = .uninitialized ∧
    0x7F < (0x80#8).toNat ∧ (0x7F#8).toNat ≤ 0x7F ∧ slave21.cfg.roleMaster = false ∧ idle21.cfg.roleMaster = true ∧
    State.reset.cfg.roleMaster = true := by decide

theorem witness_EndAndReset : (turn .reset).agenda = .reset :: [] := by decide

theorem witness_TransmissionOpened : State.reset.ownAddress = .uninitialized ∧ idle21.ownAddress ≠ .uninitialized ∧
    sending.ownAddress ≠ .uninitialized ∧ sending.outboundState ≠ .idle ∧ waiting.waitActive = true ∧
    receiving.svc ≠ .none ∧ idle21.outboundState = .idle ∧ idle21.waitActive = false ∧ idle21.svc = .none := by decide

/-- A transmission of `MAX_LEN = 2`, one byte written: no room for another. -/
def sendingFull : State := { sending with cfg := { Config.default with maxLen := 2 } }

/-- A request being served whose next growth is refused. -/
def servingRefused : State := { serving with grants := [false] }

theorem witness_ByteWritten : idle21.outboundState ≠ .locked ∧ idle21.svc ≠ .request ∧
    sendingFull.outboundState = .locked ∧ sendingFull.cfg.maxLen - 1 ≤ sendingFull.outbound.length ∧
    serving.svc = .request ∧ sending.outboundState = .locked ∧ sending.outbound.length < sending.cfg.maxLen - 1 ∧
    sending.cfg.Legal ∧ sending.outbound.Sound sending.cfg ∧ GrantsFor 1 sending ∧
    ({ Config.default with maxLen := 3 } : Config).Legal ∧
    sending.outbound.Sound { Config.default with maxLen := 3 } ∧ sending.outbound.length < 3 - 1 ∧
    servingRefused.outbound.length < servingRefused.cfg.maxLen - 1 ∧
    servingRefused.outbound.capacity = servingRefused.outbound.length ∧ servingRefused.cfg.allocCanFail = true ∧
    servingRefused.grants = false :: [] := by decide

theorem witness_TransmissionEnded : idle21.outboundState ≠ .locked ∧ sending.outboundState = .locked ∧
    sending.txAddr.toNat ≤ 0x7F ∧ sending.txAddr ≠ sending.ownAddress.code ∧
    { sending with txAddr := 0x10#8 }.txAddr = sending.ownAddress.code ∧ 0x7F < { sending with txAddr := 0x80#8 }.txAddr.toNat := by
  decide

theorem witness_RequestRefused : slave21.cfg.roleMaster = false ∧ idle21.cfg.roleMaster = true ∧
    State.reset.ownAddress = .uninitialized ∧ idle21.ownAddress ≠ .uninitialized ∧ waiting.waitActive = true ∧
    (inFrame .masterTransmit 1#16).inboundActive = true ∧
    ¬(idle21.outboundState ≠ .idle ∨ idle21.waitActive = true ∨ idle21.svc ≠ .none ∨ idle21.inboundActive = true) ∧
    1#8 ≠ 0#8 ∧ 0x7F < (0x80#8).toNat ∧ (0x21#8).toNat ≤ 0x7F ∧ 0x21#8 = idle21.ownAddress.code := by decide

theorem witness_RequestSent : idle21.cfg.roleMaster = true ∧ idle21.ownAddress ≠ .uninitialized ∧
    idle21.outboundState = .idle ∧ idle21.waitActive = false ∧ idle21.svc = .none ∧ idle21.inboundActive = false ∧
    1#8 ≠ 0#8 ∧ (0x7F#8).toNat ≤ 0x7F ∧ 0x7F#8 ≠ idle21.ownAddress.code ∧ idle21.cfg.Legal ∧
    idle21.inbound.Sound idle21.cfg ∧ GrantsFor 1 idle21 ∧
    idle21.inbound.capacity = 0 ∧ idle21.cfg.allocCanFail = true ∧ { idle21 with grants := [false] }.grants = false :: [] := by
  decide

theorem witness_ReadPeekAvail : receiving.inbound.read receiving.inbound.position = some 0xDE#8 ∧
    idle21.inbound.length ≤ idle21.inbound.position := by decide

theorem witness_ReadsInOrder : receiving.inbound.Sound receiving.cfg ∧
    receiving.inbound.position + 1 ≤ receiving.inbound.length := by decide

theorem witness_CallbackDone : idle21.svc = .none ∧ receiving.svc = .receive ∧ serving.svc = .request ∧
    serving.cfg.Legal ∧ serving.outbound.Sound serving.cfg ∧ GrantsFor serving.svcLen.toNat serving ∧
    servingRefused.svc = .request ∧ servingRefused.outbound.capacity = servingRefused.outbound.length ∧
    servingRefused.outbound.length < servingRefused.svcLen.toNat ∧
    servingRefused.outbound.length < servingRefused.cfg.maxLen - 1 ∧ servingRefused.cfg.allocCanFail = true ∧
    servingRefused.grants = false :: [] := by decide

theorem witness_RegisterMap : 23 < (24#8).toNat ∧ State.reset.ownAddress = .uninitialized ∧
    { idle21 with ownAddress := .masterOnly }.ownAddress = .masterOnly ∧ idle21.ownAddress = .bus 0x21#7 ∧
    waiting.commandKind = .none ∧ waiting.outboundState = .fillingWait ∧ waiting.svc = .none ∧ idle21.resultStatus = .ok ∧
    { idle21 with resultStatus := .timeout }.resultStatus = .timeout ∧
    { idle21 with resultStatus := .aborted }.resultStatus = .aborted := by decide

theorem witness_WaitCounted : waiting.waitActive = true ∧ waiting.waitTimer ≠ 0#16 ∧ idle21.waitActive = false ∧
    { waiting with waitTimer := 0#16 }.waitTimer = 0#16 := by decide

/-- The state of `idle21` with a timeout of two ticks. -/
def idleTwo : State := { idle21 with timeout := 2#16 }

/-- An accepted REQFROM, two ticks, and ReqComplete times out: no ReqDone before it. -/
theorem witness_WaitCounted_timeout : idleTwo.Inv ∧
    after (.cmdReqfrom 0x22#8 4#8) idleTwo (fun t => (decide (t.responses = idleTwo.responses ++ [⟨.ok, 0#16⟩]),
      (nextOf (execAll [.tick, .tick] t)).map (fun u => (u.events.drop t.events.length,
        after .reqComplete u (fun w => decide (w.events = u.events ++ [.reqDone .timeout 0#16])))))) =
      some (true, some ([], some true)) :=
  ⟨⟨by decide, by decide, by decide, by decide, by decide⟩, by decide⟩

theorem witness_RequestCompleted : waiting.waitActive = true ∧ { waiting with outboundState := .filled }.outboundState = .filled ∧
    waiting.inbound.read 0 = some waiting.reqAddr ∧ { waiting with waitTimer := 0#16 }.waitTimer = 0#16 ∧
    ¬(waiting.outboundState = .filled) ∧ ¬({ waiting with reqAddr := 0x22#8 }.inbound.read 0 = some 0x22#8) := by decide

theorem witness_CompletionEnabled : { waiting with waitTimer := 0#16 }.waitActive = true ∧
    (nextOf (exec .tick { waiting with waitTimer := 0#16 })).isSome = true ∧ Instr.tick ≠ .reqComplete ∧
    idle21.waitActive = false ∧ waiting.outboundState ≠ .filled ∧ { waiting with waitTimer := 1#16 }.waitTimer ≠ 0#16 := by
  decide

theorem witness_PortWords : (⟨.busy, 1#16⟩ : Response).status = .busy := rfl

end Sys2Proof.Tests
end

section
/-! SUPPORT. What each agent's turn brings (Machine/Fetch.lean): one lemma per kind of turn, and that a decoded line is what
`wholeLine` takes off the RX stream. -/

namespace Sys2Proof.Machine

/-! ### The front line of the RX stream -/

/-- A text that decodes as a line ends at its only line feed (R90). -/
theorem exists_eq_append_lf_of_decode_line {text : List Byte} {i : Instr} (h : decode (.line text) = .ok i) :
    ∃ cs, text = cs ++ [charLF] ∧ charLF ∉ cs := by
  simp only [decode, Decode.ofLine] at h
  split at h
  · obtain ⟨hlast, honly⟩ := ‹text.getLast? = some charLF ∧ charLF ∉ text.dropLast›
    exact ⟨text.dropLast, (List.dropLast_append_getLast? _ hlast).symm, honly⟩
  · cases h

/-- The stream is cut behind its first line feed. -/
theorem splitLine_append_lf {cs : List Byte} (rest : List Byte) (h : charLF ∉ cs) :
    splitLine (cs ++ [charLF] ++ rest) = some (cs ++ [charLF], rest) := by
  induction cs with
  | nil => simp [splitLine]
  | cons c cs ih =>
    have hc : c ≠ charLF := (List.ne_of_not_mem_cons h).symm
    have htail := ih (List.not_mem_of_not_mem_cons h)
    simp only [List.cons_append, splitLine, if_neg hc] at htail ⊢
    rw [htail]

/-- A line at the front of the stream, spelled as it is sent, is taken whole and alone (R90, log 6). -/
theorem wholeLine_append {text : List Byte} {i : Instr} (rest : List Byte) (hdec : decode (.line text) = .ok i)
    (henc : encode i = .line text) : wholeLine (text ++ rest) = some (i, rest) := by
  obtain ⟨cs, rfl, hcs⟩ := exists_eq_append_lf_of_decode_line hdec
  simp only [wholeLine, splitLine_append_lf rest hcs, hdec, henc, if_true]

/-! ### An agent's turn -/

theorem runStimulus_of_decode {x : Stimulus} {i : Instr} (s : State) (h : decode x = .ok i) :
    runStimulus x s = .run i s := by
  simp only [runStimulus, h]

section
variable {s : State} {ag : List Agent} {i : Instr}

theorem fetch_rx {b : Byte} {bs : List Byte} (ha : s.agenda = .rx :: ag) (hrx : s.rx = b :: bs)
    (hd : decode (.byte b) = .ok i) : fetch s = .run i { s with agenda := ag, rx := bs } := by
  simp only [fetch, ha, fetchByte, hrx, runStimulus_of_decode _ hd]

theorem fetch_rxLine {text bs : List Byte} (ha : s.agenda = .rxLine :: ag) (hrx : s.rx = text ++ bs)
    (hd : decode (.line text) = .ok i) (he : encode i = .line text) :
    fetch s = .run i { s with agenda := ag, rx := bs } := by
  simp only [fetch, ha, hrx, wholeLine_append bs hd he]

theorem fetch_host {w : CmdWord} {ws : List CmdWord} (ha : s.agenda = .host :: ag) (hc : s.cmds = w :: ws)
    (hd : decode (.command w) = .ok i) : fetch s = .run i { s with agenda := ag, cmds := ws } := by
  simp only [fetch, ha, hc, runStimulus_of_decode _ hd]

theorem fetch_tick (ha : s.agenda = .tick :: ag) : fetch s = .run .tick { s with agenda := ag } := by
  simp only [fetch, ha, runStimulus, decode]

theorem fetch_engine (ha : s.agenda = .engine :: ag) : fetch s = .run .reqComplete { s with agenda := ag } := by
  simp only [fetch, ha, runStimulus, decode]

/-- With the agenda used up the engine has its turn (log 5). -/
theorem fetch_agenda_nil (ha : s.agenda = []) : fetch s = .run .reqComplete s := by
  simp only [fetch, ha, runStimulus, decode]

theorem fetch_rx_nil (ha : s.agenda = .rx :: ag) (hrx : s.rx = []) : fetch s = .idle { s with agenda := ag } := by
  simp only [fetch, ha, fetchByte, hrx]

theorem fetch_host_nil (ha : s.agenda = .host :: ag) (hc : s.cmds = []) : fetch s = .idle { s with agenda := ag } := by
  simp only [fetch, ha, hc]

end

/-! ### The step -/

theorem step_of_fetch_run {s t : State} {i : Instr} (h : fetch s = .run i t) : step s = exec i t := by
  simp only [step, h]

theorem step_of_fetch_idle {s t : State} (h : fetch s = .idle t) : step s = .next t := by
  simp only [step, h]

/-- Settles O7: each agent's turn brings the decoded operation, and `step` runs what the turn brings. -/
theorem stepRunsDecoded : Obligations.StepRunsDecoded := by
  intro i s ag
  refine ⟨?rx, ?rxLine, ?host, ?tick, ?engine, ?agendaUsedUp, ?rxEmpty, ?hostEmpty⟩
  case rx => exact fun b bs ha hrx hd => step_of_fetch_run (fetch_rx ha hrx hd)
  case rxLine => exact fun text bs ha hrx hd he => step_of_fetch_run (fetch_rxLine ha hrx hd he)
  case host => exact fun w ws ha hc hd => step_of_fetch_run (fetch_host ha hc hd)
  case tick => exact fun ha => step_of_fetch_run (fetch_tick ha)
  case engine => exact fun ha => step_of_fetch_run (fetch_engine ha)
  case agendaUsedUp => exact fun ha => step_of_fetch_run (fetch_agenda_nil ha)
  case rxEmpty => exact fun ha hrx => step_of_fetch_idle (fetch_rx_nil ha hrx)
  case hostEmpty => exact fun ha hc => step_of_fetch_idle (fetch_host_nil ha hc)

end Sys2Proof.Machine
end

section
/-! SUPPORT. Sound buffers (R38, R63): which capacities a growth and a trim can leave, and what the primitives of
40_buffer keep. -/

namespace Sys2Proof.Machine

/-! ### Block rounding -/

theorem blockSize_pos {cfg : Config} (h : cfg.Legal) : 1 ≤ cfg.blockSize := by
  obtain ⟨-, -, -, hblock, -, -⟩ := h
  exact hblock

theorem le_roundUp {cfg : Config} (hb : 1 ≤ cfg.blockSize) (x : Nat) : x ≤ roundUp cfg x := by
  have hdiv := Nat.div_add_mod (x + cfg.blockSize - 1) cfg.blockSize
  have hmod := Nat.mod_lt (x + cfg.blockSize - 1) (show cfg.blockSize > 0 by omega)
  rw [Nat.mul_comm] at hdiv
  unfold roundUp
  omega

theorem roundUp_mod (cfg : Config) (x : Nat) : roundUp cfg x % cfg.blockSize = 0 := Nat.mul_mod_left _ _

theorem roundUp_mono (cfg : Config) {x y : Nat} (h : x ≤ y) : roundUp cfg x ≤ roundUp cfg y :=
  Nat.mul_le_mul_right _ (Nat.div_le_div_right (by omega))

/-- No multiple of the block size stands between a number and its rounding (R130). -/
theorem roundUp_le_of_mod {cfg : Config} {x m : Nat} (hb : 1 ≤ cfg.blockSize) (hm : m % cfg.blockSize = 0) (h : x ≤ m) :
    roundUp cfg x ≤ m := by
  obtain ⟨k, rfl⟩ := Nat.dvd_of_mod_eq_zero hm
  have hk : (x + cfg.blockSize - 1) / cfg.blockSize ≤ k := by
    rw [Nat.div_le_iff_le_mul_add_pred (by omega)]
    omega
  calc roundUp cfg x ≤ k * cfg.blockSize := Nat.mul_le_mul_right _ hk
    _ = cfg.blockSize * k := Nat.mul_comm _ _

/-! ### Capacities -/

/-- The capacities R38 and R63 allow. -/
abbrev CapacitySound (cfg : Config) (cap : Nat) : Prop :=
  (cap = 0 ∨ cfg.minFloor ≤ cap) ∧ (cap = cfg.minFloor ∨ cap % cfg.blockSize = 0) ∧ cap ≤ growCap cfg cfg.maxLen

theorem capacitySound_zero (cfg : Config) : CapacitySound cfg 0 := ⟨.inl rfl, .inr (Nat.zero_mod _), Nat.zero_le _⟩

theorem le_growCap {cfg : Config} (hb : 1 ≤ cfg.blockSize) (n : Nat) : n ≤ growCap cfg n :=
  le_trans (le_roundUp hb n) (le_max_left _ _)

theorem growCap_mono (cfg : Config) {m n : Nat} (h : m ≤ n) : growCap cfg m ≤ growCap cfg n :=
  max_le_max_right _ (roundUp_mono cfg h)

theorem growCap_capacitySound {cfg : Config} {n : Nat} (h : n ≤ cfg.maxLen) : CapacitySound cfg (growCap cfg n) := by
  refine ⟨.inr (le_max_right _ _), ?_, growCap_mono cfg h⟩
  rcases max_choice (roundUp cfg n) cfg.minFloor with hc | hc
  · exact .inr (by rw [growCap, hc, roundUp_mod])
  · exact .inl hc

theorem appendedCap_eq (cfg : Config) (b : Buffer) :
    appendedCap cfg b = if b.length + 1 > b.capacity then growCap cfg (b.length + 1) else b.capacity := rfl

/-- What a trim leaves lies between the length and the old capacity, and not below the floor (R38, R135). -/
theorem clearedCap_bounds {cfg : Config} {buf : Buffer} (hb : 1 ≤ cfg.blockSize) (h : buf.Sound cfg) :
    clearedCap cfg buf ≤ buf.capacity ∧ buf.length ≤ clearedCap cfg buf ∧
      (buf.capacity ≠ 0 → cfg.minFloor ≤ clearedCap cfg buf) := by
  obtain ⟨-, -, hlen, hfloor, hmul, -⟩ := h
  unfold clearedCap
  split
  · next htrim =>
    have hround : roundUp cfg buf.length ≤ buf.capacity := roundUp_le_of_mod hb (by omega) hlen
    exact ⟨max_le hround (by omega), le_growCap hb _, fun _ => le_max_right _ _⟩
  · exact ⟨le_rfl, hlen, fun hne => by omega⟩

/-- Settles O10: the bounds of a trim, and its two branches as they stand. -/
theorem clearPolicy : Obligations.ClearPolicy := by
  intro cfg buf hlegal hsound
  obtain ⟨hle, hlen, hfloor⟩ := clearedCap_bounds (blockSize_pos hlegal) hsound
  exact ⟨hle, hlen, hfloor, fun hkeep => if_neg (by omega), fun htrim => if_pos htrim⟩

theorem clearedCap_capacitySound {cfg : Config} {buf : Buffer} (h : buf.Sound cfg)
    (hlen : buf.length ≤ cfg.maxLen) : CapacitySound cfg (clearedCap cfg buf) := by
  unfold clearedCap
  split
  · exact growCap_capacitySound hlen
  · obtain ⟨-, -, -, hcap⟩ := h
    exact hcap

/-! ### Buffers -/

namespace Buffer

variable {cfg : Config} {buf : Buffer}

theorem empty_sound (cfg : Config) : empty.Sound cfg := ⟨rfl, le_rfl, le_rfl, capacitySound_zero cfg⟩

theorem cleared_sound {n : Nat} (h : CapacitySound cfg n) : (cleared n).Sound cfg := ⟨rfl, le_rfl, Nat.zero_le _, h⟩

/-- A byte that can be read stands below the length. -/
theorem lt_length_of_read {i : Nat} {v : Byte} (h : buf.read i = some v) : i < buf.length := by
  by_contra hlt
  simp [read, hlt] at h

/-- A read looks at the bytes and the length only. -/
@[simp] theorem read_position (buf : Buffer) (p i : Nat) : { buf with position := p }.read i = buf.read i := rfl

theorem position_sound {p : Nat} (h : buf.Sound cfg) (hp : p ≤ buf.length) : { buf with position := p }.Sound cfg := by
  obtain ⟨hkeys, -, hrest⟩ := h
  exact ⟨hkeys, hp, hrest⟩

/-- The buffer after a granted append: grown first where the byte does not fit (R132). -/
def pushed (cfg : Config) (buf : Buffer) (b : Byte) : Buffer :=
  Buffer.append { buf with capacity := appendedCap cfg buf } b

@[simp] theorem pushed_length (cfg : Config) (buf : Buffer) (b : Byte) :
    (buf.pushed cfg b).length = buf.length + 1 := rfl

@[simp] theorem pushed_position (cfg : Config) (buf : Buffer) (b : Byte) :
    (buf.pushed cfg b).position = buf.position := rfl

theorem pushed_of_fits (b : Byte) (h : buf.length + 1 ≤ buf.capacity) : buf.pushed cfg b = buf.append b := by
  simp only [pushed, appendedCap_eq, if_neg (Nat.not_lt.mpr h)]

theorem pushed_of_grows (b : Byte) (h : buf.capacity < buf.length + 1) :
    buf.pushed cfg b = Buffer.append { buf with capacity := growCap cfg (buf.length + 1) } b := by
  simp only [pushed, appendedCap_eq, if_pos h]

theorem read_pushed_of_lt (cfg : Config) (b : Byte) {i : Nat} (h : i < buf.length) :
    (buf.pushed cfg b).read i = buf.read i :=
  read_append_of_lt { buf with capacity := appendedCap cfg buf } b h

theorem read_pushed_length (cfg : Config) (buf : Buffer) (b : Byte) : (buf.pushed cfg b).read buf.length = some b :=
  read_append_length { buf with capacity := appendedCap cfg buf } b

theorem pushed_sound (b : Byte) (hb : 1 ≤ cfg.blockSize) (h : buf.Sound cfg) (hlen : buf.length < cfg.maxLen) :
    (buf.pushed cfg b).Sound cfg := by
  obtain ⟨hkeys, hpos, hle, hcap⟩ := h
  have hgrown : buf.length + 1 ≤ appendedCap cfg buf ∧ CapacitySound cfg (appendedCap cfg buf) := by
    rw [appendedCap_eq]
    split
    · exact ⟨le_growCap hb _, growCap_capacitySound hlen⟩
    · exact ⟨by omega, hcap⟩
  exact ⟨append_keys (buf := { buf with capacity := appendedCap cfg buf }) b hkeys, by simp; omega, hgrown⟩

end Buffer

/-! ### BufWrite, by its answer -/

/-- BufWrite that answers true: the byte appended; requests, coming answers and draw counter move besides (R132). -/
theorem bufWrite_true {id : BufId} {b : Byte} {s u : State} (h : bufWrite id b s = (true, u)) :
    ∃ reqs gs n, u = { s.setBuf id ((s.buf id).pushed s.cfg b) with
      allocReqs := s.allocReqs ++ reqs, grants := gs, draws := n } := by
  by_cases hfits : (s.buf id).length + 1 ≤ (s.buf id).capacity
  · rw [bufWrite_fits b hfits] at h
    cases h
    exact ⟨[], s.grants, s.draws, by
      rw [Buffer.pushed_of_fits b hfits, List.append_nil]; cases id <;> rfl⟩
  · have hgrow : (s.buf id).capacity < (s.buf id).length + 1 := Nat.lt_of_not_le hfits
    cases hg : nextGrant s
    · rw [bufWrite_refused b hgrow hg] at h
      cases h
    · rw [bufWrite_grows b hgrow hg, drawGrant_eq] at h
      cases h
      exact ⟨[⟨id, growCap s.cfg ((s.buf id).length + 1)⟩], _, _, by
        rw [Buffer.pushed_of_grows b hgrow]; cases id <;> rfl⟩

/-- BufWrite that answers false: the buffer is gone (R132, R136). -/
theorem bufWrite_false {id : BufId} {b : Byte} {s u : State} (h : bufWrite id b s = (false, u)) :
    ∃ reqs gs n, u = { s.setBuf id (Buffer.cleared 0) with
      allocReqs := s.allocReqs ++ reqs, grants := gs, draws := n } := by
  by_cases hfits : (s.buf id).length + 1 ≤ (s.buf id).capacity
  · rw [bufWrite_fits b hfits] at h
    cases h
  · have hgrow : (s.buf id).capacity < (s.buf id).length + 1 := Nat.lt_of_not_le hfits
    cases hg : nextGrant s
    · rw [bufWrite_refused b hgrow hg, drawGrant_eq] at h
      cases id
      · rw [bufRelease_inbound_eq] at h
        cases h
        exact ⟨_, _, _, by simp only [State.setBuf, State.logAlloc, List.append_assoc]; rfl⟩
      · rw [bufRelease_outbound_eq] at h
        cases h
        exact ⟨_, _, _, by simp only [State.setBuf, State.logAlloc, List.append_assoc]; rfl⟩
    · rw [bufWrite_grows b hgrow hg] at h
      cases h

end Sys2Proof.Machine
end

section
/-! SUPPORT. The invariant at reset, and what the shared operations keep of it: the buffer primitives and an aborted
line. -/

namespace Sys2Proof.Machine

/-- With the registers at their reset values and both buffers empty nothing is in progress, whatever the scratch cells
hold (R20, R51). -/
theorem initial_scratch_inv {cfg : Config} (c : Scratch) (h : cfg.Legal) :
    State.Inv { State.initial cfg with scratch := c } := by
  have hempty : Buffer.empty.Sound cfg := Buffer.empty_sound cfg
  refine ⟨h, ⟨hempty, hempty, Nat.zero_le _, Nat.zero_le _, rfl⟩, ?_, ?_, ?_⟩
  · simp [PhaseSound, State.initial, CommandKind.isPayload]
  · simp [FrameSound, State.initial]
  · simp [TransactionSound, State.initial, awaiting, Buffer.empty]

theorem initial_inv {cfg : Config} (h : cfg.Legal) : (State.initial cfg).Inv :=
  initial_scratch_inv (State.initial cfg).scratch h

/-- Settles O39: the default parameters are legal. -/
theorem resetInv : Obligations.ResetInv := ⟨initial_inv (by decide), fun _ => initial_inv⟩

/-! ### The two buffers, one of them replaced -/

theorem bufClear_sound {cfg : Config} {buf : Buffer} (h : buf.Sound cfg) (hlen : buf.length ≤ cfg.maxLen) :
    (Buffer.cleared (clearedCap cfg buf)).Sound cfg :=
  Buffer.cleared_sound (clearedCap_capacitySound h hlen)

theorem inbound_sound {s : State} (h : BuffersSound s) : s.inbound.Sound s.cfg ∧ s.inbound.length ≤ s.cfg.maxLen := by
  obtain ⟨hin, -, hinLen, -, -⟩ := h
  exact ⟨hin, hinLen⟩

/-- A sound state with another sound `inbound` has sound buffers. -/
theorem buffersSound_inbound {s : State} {b : Buffer} (h : BuffersSound s) (hb : b.Sound s.cfg)
    (hlen : b.length ≤ s.cfg.maxLen) : BuffersSound { s with inbound := b } := by
  obtain ⟨-, hout, -, houtLen, houtPos⟩ := h
  exact ⟨hb, hout, hlen, houtLen, houtPos⟩

theorem buffersSound_outbound {s : State} {b : Buffer} (h : BuffersSound s) (hb : b.Sound s.cfg)
    (hlen : b.length ≤ s.cfg.maxLen - 1) (hpos : b.position = 0) : BuffersSound { s with outbound := b } := by
  obtain ⟨hin, -, hinLen, -, -⟩ := h
  exact ⟨hin, hb, hinLen, hlen, hpos⟩

theorem buffersSound_inbound_cleared {s : State} (h : BuffersSound s) :
    BuffersSound { s with inbound := Buffer.cleared (clearedCap s.cfg s.inbound) } :=
  buffersSound_inbound h (bufClear_sound (inbound_sound h).1 (inbound_sound h).2) (Nat.zero_le _)

/-- A refused growth leaves the buffers sound (R132, R136). -/
theorem buffersSound_inbound_released {s : State} (h : BuffersSound s) :
    BuffersSound { s with inbound := Buffer.cleared 0 } :=
  buffersSound_inbound h (Buffer.cleared_sound (capacitySound_zero _)) (Nat.zero_le _)

/-- The cursor may stand anywhere up to the length (R38). -/
theorem buffersSound_inbound_position {s : State} {p : Nat} (h : BuffersSound s) (hp : p ≤ s.inbound.length) :
    BuffersSound { s with inbound := { s.inbound with position := p } } :=
  buffersSound_inbound h (Buffer.position_sound (inbound_sound h).1 hp) (inbound_sound h).2

theorem buffersSound_outbound_released {s : State} (h : BuffersSound s) :
    BuffersSound { s with outbound := Buffer.cleared 0 } :=
  buffersSound_outbound h (Buffer.cleared_sound (capacitySound_zero _)) (Nat.zero_le _) rfl

theorem buffersSound_outbound_pushed {s : State} (b : Byte) (hlegal : s.cfg.Legal) (h : BuffersSound s)
    (hroom : s.outbound.length < s.cfg.maxLen - 1) :
    BuffersSound { s with outbound := s.outbound.pushed s.cfg b } := by
  have hbuf := h
  obtain ⟨-, hout, -, -, hpos⟩ := h
  exact buffersSound_outbound hbuf (Buffer.pushed_sound b (blockSize_pos hlegal) hout (by omega)) hroom hpos

theorem buffersSound_outbound_cleared {s : State} (h : BuffersSound s) :
    BuffersSound { s with outbound := Buffer.cleared (clearedCap s.cfg s.outbound) } := by
  have hbuf := h
  obtain ⟨-, hout, -, houtLen, -⟩ := h
  exact buffersSound_outbound hbuf (bufClear_sound hout (by omega)) (Nat.zero_le _) rfl

/-! ### An aborted line (R163) -/

/-- What Discard asks of the state it meets: all of the invariant that it does not set right itself. -/
abbrev Abortable (s : State) : Prop :=
  s.cfg.Legal ∧ BuffersSound s ∧ s.svc = .none ∧
    (s.cfg.crcEnable = false → s.crcRx = 0#16 ∧ s.crcAcc = Config.crcSeed) ∧
    (s.outboundState = .filled → s.inboundActive = false ∧ s.waitActive = true ∧ s.inbound.read 0 = some s.reqAddr) ∧
    (s.waitActive = true →
      s.cfg.roleMaster = true ∧ begun s = true ∧ s.svc = .none ∧ s.outboundState ≠ .locked ∧
        s.reqAddr.toNat ≤ 0x7F ∧ s.reqAddr ≠ s.ownAddress.code ∧ s.reqCount ≠ 0#8) ∧
    (s.outboundState = .locked → begun s = true) ∧
    (s.outboundState ≠ .locked → s.outbound.length = 0)

/-- A frame in flight and a complete response exclude each other (R27). -/
theorem inboundActive_of_filled {s : State} (h : s.Inv) (hf : s.outboundState = .filled) : s.inboundActive = false := by
  obtain ⟨-, -, -, ⟨-, -, -, -, hresp, hother⟩, hresponse, -⟩ := h
  grind

theorem abortable_of_inv {s : State} (h : s.Inv) (hsvc : s.svc = .none) : Abortable s := by
  have hfilled := inboundActive_of_filled h
  obtain ⟨hlegal, hbuf, ⟨-, -, -, -, -, hcrc⟩, -, hresponse, hwait, -, -, hlocked, hempty⟩ := h
  exact ⟨hlegal, hbuf, hsvc, fun hc => (hcrc hc).2, fun hf => ⟨hfilled hf, hresponse (.inr hf)⟩, hwait, hlocked,
    fun hl => hempty hl (by simp [hsvc])⟩

/-- After Discard, and whether or not the line is over with it, the invariant holds (R163, R208). -/
theorem discard_with_kind_inv {s : State} (r : Reason) {k : CommandKind} (h : Abortable s) (hk : k.isPayload = false) :
    State.Inv { discard r s with commandKind := k, inCrc := false, crcDigits := 0 } := by
  obtain ⟨hlegal, hbuf, hsvc, hcrc, hfilled, hwait, hlocked, hempty⟩ := h
  rw [discard_eq]
  refine ⟨hlegal, ?buffers, ?phase, ?frame, ?transaction⟩
  case buffers =>
    cases hdrop : (s.inboundActive || awaiting s)
    · exact hbuf
    · exact buffersSound_inbound_cleared hbuf
  case phase => simp_all [PhaseSound]
  case frame => cases k <;> simp_all [FrameSound, CommandKind.isPayload]
  case transaction =>
    cases ho : s.outboundState <;> simp_all [TransactionSound, awaiting, begun]

theorem discard_inv {s : State} (r : Reason) (h : Abortable s) : (discard r s).Inv := by
  have hinv := discard_with_kind_inv r (k := .discard) h rfl
  rw [discard_eq] at hinv ⊢
  exact hinv

end Sys2Proof.Machine
end

section
/-! SUPPORT. The receive operations keep the invariant (R160 to R181), and what a line feed leaves (R200 to R208). -/

namespace Sys2Proof.Machine

/-! ### What a transaction asks of the state while the port is ready -/

/-- While the port is ready, no transaction depends on the parser's registers or on `svcLen` (R266). -/
theorem transactionSound_parser {s : State} {k : CommandKind} {n : Fin 7} {v : Byte} (h : TransactionSound s)
    (hsvc : s.svc = .none) : TransactionSound { s with commandKind := k, scratchLen := n, svcLen := v } := by
  obtain ⟨hawait, hwait, -, -, hlocked, hempty⟩ := h
  exact ⟨hawait, hwait, fun hs => absurd hsvc hs, fun hs => absurd (hsvc.symm.trans hs) nofun, hlocked, hempty⟩

/-- While the port is ready, a transaction asks of `inbound` only the address it awaits (R300). -/
theorem transactionSound_inbound {s : State} {b : Buffer} (h : TransactionSound s) (hsvc : s.svc = .none)
    (hread : awaiting s = true ∨ s.outboundState = .filled → b.read 0 = some s.reqAddr) :
    TransactionSound { s with inbound := b } := by
  obtain ⟨hawait, hwait, -, hrest⟩ := h
  exact ⟨fun ha => ⟨(hawait ha).1, hread ha⟩, hwait, fun hs => absurd hsvc hs, hrest⟩

/-! ### A byte appended to a frame (R176) -/

/-- A frame that goes into `inbound` is in flight, whatever `inbound` holds of it so far (R24, R172, R173, R175). -/
abbrev FrameOpen (s : State) : Prop :=
  (s.commandKind = .masterTransmit ∨ s.commandKind = .masterRequest ∨ s.commandKind = .slaveResponse) ∧
    s.inboundActive = true ∧ s.frameBytes ≠ 0#16 ∧
    (s.commandKind = .slaveResponse → s.outboundState = .filling) ∧
    (s.commandKind ≠ .slaveResponse → s.waitActive = false ∧ s.ownAddress.isBus = true)

theorem frameSound_of_open {s : State} (h : FrameOpen s) (hlen : 1 ≤ s.inbound.length) : FrameSound s := by
  obtain ⟨hkind, hactive, hbytes, hresponse, hother⟩ := h
  rcases hkind with hk | hk | hk <;> simp_all [FrameSound, CommandKind.isPayload]

/-- No complete response stands in `inbound` while a frame goes into it (R27). -/
theorem not_filled_of_open {s : State} (h : FrameOpen s) (ht : TransactionSound s) : s.outboundState ≠ .filled := by
  obtain ⟨-, -, -, hresponse, hother⟩ := h
  obtain ⟨hawait, -⟩ := ht
  grind

/-- A line whose frame cannot take its byte can be aborted, whatever became of `inbound` (R176). -/
theorem abortable_of_open {s : State} {b : Buffer} (hlegal : s.cfg.Legal) (hbuf : BuffersSound { s with inbound := b })
    (hphase : PhaseSound s) (hopen : FrameOpen s) (ht : TransactionSound s) (hsvc : s.svc = .none) :
    Abortable { s with inbound := b } := by
  have hfilled := not_filled_of_open hopen ht
  obtain ⟨-, -, -, -, -, hcrc⟩ := hphase
  obtain ⟨-, hwait, -, -, hlocked, hempty⟩ := ht
  exact ⟨hlegal, hbuf, hsvc, fun hc => (hcrc hc).2, fun hf => absurd hf hfilled, hwait, hlocked,
    fun hl => hempty hl (by simp [hsvc])⟩

theorem appendInbound_inv {s : State} (v : Byte) (hlegal : s.cfg.Legal) (hbuf : BuffersSound s) (hphase : PhaseSound s)
    (hopen : FrameOpen s) (ht : TransactionSound s) (hsvc : s.svc = .none) : (appendInbound v s).Inv := by
  unfold appendInbound
  split
  · exact discard_inv _ (abortable_of_open (b := s.inbound) hlegal hbuf hphase hopen ht hsvc)
  next hroom =>
    have hlt : s.inbound.length < s.cfg.maxLen := Nat.lt_of_not_le hroom
    rcases hw : bufWrite .inbound v s with ⟨ok, u⟩
    cases ok
    · obtain ⟨reqs, gs, n, rfl⟩ := bufWrite_false hw
      exact discard_inv _ (abortable_of_open (s := s) hlegal (buffersSound_inbound_released hbuf) hphase hopen ht hsvc)
    · obtain ⟨reqs, gs, n, rfl⟩ := bufWrite_true hw
      obtain ⟨hin, -⟩ := inbound_sound hbuf
      refine ⟨hlegal, buffersSound_inbound (s := s) hbuf (Buffer.pushed_sound v (blockSize_pos hlegal) hin hlt) hlt,
        hphase, frameSound_of_open hopen (by simp), ?_⟩
      refine transactionSound_inbound (s := s) ht hsvc fun hawait => ?_
      obtain ⟨-, hread⟩ := ht.1 hawait
      exact (Buffer.read_pushed_of_lt _ v (Buffer.lt_length_of_read hread)).trans hread

/-! ### The first byte of a frame (R140, R172, R173) -/

/-- ResetInbound, whole (R140). -/
theorem resetInbound_eq (s : State) :
    resetInbound s =
      { s with inbound := resetBuffer s.cfg s.inbound, allocReqs := s.allocReqs ++ resetRequest s } := by
  unfold resetInbound resetBuffer resetRequest
  by_cases h : s.inbound.length = 0
  · simp [h]
  · rw [if_pos h, if_neg h, if_neg h, bufClear_inbound_eq]
    rfl

theorem resetBuffer_length (cfg : Config) (b : Buffer) : (resetBuffer cfg b).length = 0 := by
  unfold resetBuffer
  split
  · assumption
  · rfl

theorem resetBuffer_sound {cfg : Config} {b : Buffer} (h : b.Sound cfg) (hlen : b.length ≤ cfg.maxLen) :
    (resetBuffer cfg b).Sound cfg := by
  unfold resetBuffer
  split
  · exact h
  · exact bufClear_sound h hlen

theorem isBus_of_addrMatch {s : State} {v : Byte} (h : addrMatch s v = true) : s.ownAddress.isBus = true := by
  unfold addrMatch at h
  cases ho : s.ownAddress <;> simp_all [OwnAddress.isBus]

theorem acceptAddress_inv {s : State} (v : Byte) (hlegal : s.cfg.Legal) (hbuf : BuffersSound s) (hphase : PhaseSound s)
    (ht : TransactionSound s) (hsvc : s.svc = .none)
    (hkind : s.commandKind = .masterTransmit ∨ s.commandKind = .masterRequest) (hbytes : s.frameBytes ≠ 0#16)
    (hidle : s.outboundState = .idle) (hwait : s.waitActive = false) (hbus : s.ownAddress.isBus = true) : (acceptAddress v s).Inv := by
  obtain ⟨hin, hinLen⟩ := inbound_sound hbuf
  have hsound := resetBuffer_sound hin hinLen
  have hlen : (resetBuffer s.cfg s.inbound).length ≤ s.cfg.maxLen := by rw [resetBuffer_length]; exact Nat.zero_le _
  unfold acceptAddress
  rw [resetInbound_eq]
  refine appendInbound_inv v hlegal (buffersSound_inbound (s := s) hbuf hsound hlen) ?_ ?_
    (transactionSound_inbound (s := s) ht hsvc fun hawait => ?_) hsvc
  · rcases hkind with hk | hk <;> simpa [PhaseSound, hk, CommandKind.isPayload] using hphase
  · rcases hkind with hk | hk <;> simp [FrameOpen, hk, hbytes, hwait, hbus]
  · simp [awaiting, hidle] at hawait

/-! ### A decoded payload byte (R170 to R175) -/

theorem satSucc_ne_zero (x : Half) : satSucc x ≠ 0#16 := by
  unfold satSucc
  split
  · simp_all
  · bv_omega

theorem satSucc_eq_one_iff (x : Half) : satSucc x = 1#16 ↔ x = 0#16 := by
  unfold satSucc
  split
  · simp_all
  · bv_omega

/-- The kinds of a line whose payload goes into `inbound`. -/
theorem kinds_of_isPayload {k : CommandKind} (h : k.isPayload = true) (hk : k ≠ .sendDiscarded) :
    k = .masterTransmit ∨ k = .masterRequest ∨ k = .slaveResponse := by
  cases k <;> simp_all [CommandKind.isPayload]

/-- A payload byte has been counted and not yet examined (R170): it is the frame's first byte exactly where no frame is
in flight yet. -/
abbrev Counted (s : State) : Prop :=
  s.cfg.Legal ∧ BuffersSound s ∧ PhaseSound s ∧ TransactionSound s ∧ s.svc = .none ∧ s.commandKind.isPayload = true ∧
    s.frameBytes ≠ 0#16 ∧
    (s.commandKind = .sendDiscarded → s.inboundActive = false ∧ s.ownAddress.isBus = true) ∧
    (s.commandKind ≠ .sendDiscarded → (s.inboundActive = true ↔ s.frameBytes ≠ 1#16)) ∧
    (s.inboundActive = true → 1 ≤ s.inbound.length) ∧
    (s.inboundActive = true → s.commandKind = .slaveResponse → s.outboundState = .filling) ∧
    (s.inboundActive = true → s.commandKind ≠ .slaveResponse → s.waitActive = false ∧ s.ownAddress.isBus = true)

theorem countPayload_counted {s : State} (v : Byte) (h : s.Inv) (hsvc : s.svc = .none)
    (hkind : s.commandKind.isPayload = true) : Counted (countPayload v s) := by
  obtain ⟨hlegal, hbuf, hphase, ⟨-, hactive, hdropped, hlen, hresponse, hother⟩, ht⟩ := h
  refine ⟨hlegal, hbuf, ?_, ht, hsvc, hkind, satSucc_ne_zero _, fun hk => ?_, fun hk => ?_, hlen, hresponse, hother⟩
  · unfold countPayload
    simp_all [PhaseSound]
  · obtain ⟨hi, -, hb⟩ := hdropped hk
    exact ⟨hi, hb⟩
  · show s.inboundActive = true ↔ satSucc s.frameBytes ≠ 1#16
    rw [Ne, satSucc_eq_one_iff]
    have hkinds := kinds_of_isPayload hkind hk
    exact hactive hkinds

theorem abortable_of_counted {s : State} (h : Counted s) : Abortable s := by
  obtain ⟨hlegal, hbuf, hphase, ht, hsvc, -, -, -, -, -, hresponse, hother⟩ := h
  obtain ⟨-, -, -, -, -, hcrc⟩ := hphase
  obtain ⟨hawait, hwait, -, -, hlocked, hempty⟩ := ht
  refine ⟨hlegal, hbuf, hsvc, fun hc => (hcrc hc).2, fun hf => ?_, hwait, hlocked,
    fun hl => hempty hl (by simp [hsvc])⟩
  obtain ⟨hw, hread⟩ := hawait (.inr hf)
  exact ⟨by grind, hw, hread⟩

/-- A later byte of a frame in flight is appended (R172, R173, R175). -/
theorem appendInbound_counted_inv {s : State} (v : Byte) (h : Counted s) (ha : s.inboundActive = true) :
    (appendInbound v s).Inv := by
  obtain ⟨hlegal, hbuf, hphase, ht, hsvc, hkind, hbytes, hdropped, -, -, hresponse, hother⟩ := h
  have hserved : s.commandKind ≠ .sendDiscarded := fun hk => absurd ha (by simp [(hdropped hk).1])
  exact appendInbound_inv v hlegal hbuf hphase
    ⟨kinds_of_isPayload hkind hserved, ha, hbytes, hresponse ha, hother ha⟩ ht hsvc

theorem transmitByte_inv {s : State} (v : Byte) (h : Counted s) (hk : s.commandKind = .masterTransmit) :
    (transmitByte v s).Inv := by
  have habort := abortable_of_counted h
  obtain ⟨hlegal, hbuf, hphase, ht, hsvc, -, hbytes, -, hactive, -⟩ := id h
  unfold transmitByte
  split
  · split
    · exact discard_inv _ habort
    next hmatch =>
      split
      · exact discard_inv _ habort
      next hfree =>
        obtain ⟨hidle, hwait⟩ := not_or.mp hfree
        exact acceptAddress_inv v hlegal hbuf hphase ht hsvc (.inl hk) hbytes (not_not.mp hidle) (by simpa using hwait)
          (isBus_of_addrMatch (by simpa using hmatch))
  next hlater => exact appendInbound_counted_inv v h ((hactive (by simp [hk])).mpr hlater)

theorem requestByte_inv {s : State} (v : Byte) (h : Counted s) (hk : s.commandKind = .masterRequest) :
    (requestByte v s).Inv := by
  have habort := abortable_of_counted h
  obtain ⟨hlegal, hbuf, hphase, ht, hsvc, hpay, hbytes, hdropped, hactive, hrest⟩ := id h
  unfold requestByte
  split
  next hfirst =>
    have hinactive : s.inboundActive = false := by simpa [hfirst] using hactive (by simp [hk])
    split
    · exact discard_inv _ habort
    next hmatch =>
      have hbus : s.ownAddress.isBus = true := isBus_of_addrMatch (by simpa using hmatch)
      split
      · refine ⟨hlegal, hbuf, ?_, ?_, ?_⟩
        · simpa [PhaseSound, hk, CommandKind.isPayload] using hphase
        · simp [FrameSound, CommandKind.isPayload, hinactive, hbytes, hbus]
        · exact transactionSound_parser (s := s) ht hsvc
      next hwait =>
        split
        · exact discard_inv _ habort
        next hidle =>
          exact acceptAddress_inv v hlegal hbuf hphase ht hsvc (.inr hk) hbytes (not_not.mp hidle)
            (by simpa using hwait) hbus
  next hlater =>
    split
    · refine appendInbound_counted_inv v ⟨hlegal, hbuf, hphase, ?_, hsvc, hpay, hbytes, hdropped, hactive, hrest⟩
        ((hactive (by simp [hk])).mpr hlater)
      exact transactionSound_parser (s := s) ht hsvc
    · exact discard_inv _ habort

theorem nackedRequestByte_inv {s : State} (v : Byte) (h : Counted s) (hk : s.commandKind = .sendDiscarded) :
    (nackedRequestByte v s).Inv := by
  have habort := abortable_of_counted h
  obtain ⟨hlegal, hbuf, hphase, ht, hsvc, -, hbytes, hdropped, -⟩ := h
  obtain ⟨hinactive, hbus⟩ := hdropped hk
  unfold nackedRequestByte
  split
  · refine ⟨hlegal, hbuf, hphase, by simp [FrameSound, hk, hinactive, hbytes, hbus], ?_⟩
    exact transactionSound_parser (s := s) ht hsvc
  · exact discard_inv _ habort

theorem responseByte_inv {s : State} (v : Byte) (h : Counted s) (hk : s.commandKind = .slaveResponse) :
    (responseByte v s).Inv := by
  have habort := abortable_of_counted h
  unfold responseByte
  split
  · split
    next hasked =>
      obtain ⟨hfilling, hread⟩ := hasked
      obtain ⟨hlegal, hbuf, hphase, ht, hsvc, -, hbytes, -, -, -⟩ := h
      refine ⟨hlegal, hbuf, hphase, ?_, ?_⟩
      · exact frameSound_of_open ⟨by simp [hk], rfl, hbytes, fun _ => rfl, fun hne => absurd hk hne⟩
          (Buffer.lt_length_of_read hread)
      · simp_all [TransactionSound, awaiting, begun]
    · exact discard_inv _ habort
  · split
    next hfill => exact appendInbound_counted_inv v h hfill.2
    · exact discard_inv _ habort

theorem payloadByte_inv {s : State} (v : Byte) (h : s.Inv) (hsvc : s.svc = .none)
    (hkind : s.commandKind.isPayload = true) : (payloadByte v s).Inv := by
  have hcounted := countPayload_counted v h hsvc hkind
  unfold payloadByte
  split
  next hk => exact transmitByte_inv v hcounted hk
  next hk => exact requestByte_inv v hcounted hk
  next hk => exact nackedRequestByte_inv v hcounted hk
  next hk => exact responseByte_inv v hcounted hk
  next hk => simp [hk, CommandKind.isPayload] at hkind
  next hk => simp [hk, CommandKind.isPayload] at hkind

/-! ### Payload characters (R168, R169, R177 to R180) -/

section
variable {s t : State} {b : Byte}

theorem hexChar_inv {d : BitVec 4} (h : s.Inv) (hsvc : s.svc = .none) (hkind : s.commandKind.isPayload = true)
    (hcrc : s.inCrc = false) (hb : hexVal? b = some d) (hrun : hexChar b d s = .next t) : t.Inv := by
  obtain ⟨hlegal, hbuf, hphase, hframe, ht⟩ := h
  unfold hexChar at hrun
  split at hrun
  · cases hrun
    refine ⟨hlegal, hbuf, ?_, hframe, transactionSound_parser (s := s) ht hsvc⟩
    have hhex : isHex b = true := by simp [isHex, hb]
    cases hk : s.commandKind <;> simp_all [PhaseSound, CommandKind.isPayload]
  · split at hrun
    · cases hrun
      refine payloadByte_inv _ ⟨hlegal, hbuf, ?_, hframe, transactionSound_parser (s := s) ht hsvc⟩ hsvc hkind
      cases hk : s.commandKind <;> simp_all [PhaseSound, CommandKind.isPayload]
    · cases hrun

theorem separator_inv (h : s.Inv) (hsvc : s.svc = .none) : (separator s).Inv := by
  unfold separator
  split
  · exact discard_inv _ (abortable_of_inv h hsvc)
  · exact h

theorem hashMark_inv (h : s.Inv) (hsvc : s.svc = .none) (hkind : s.commandKind.isPayload = true) :
    (hashMark s).Inv := by
  have habort := abortable_of_inv h hsvc
  unfold hashMark
  split
  next hlayer =>
    split
    next hpair =>
      obtain ⟨hlegal, hbuf, hphase, hframe, ht⟩ := h
      refine ⟨hlegal, hbuf, ?_, hframe, ht⟩
      cases hk : s.commandKind <;> simp_all [PhaseSound, CommandKind.isPayload]
    · exact discard_inv _ habort
  · exact discard_inv _ habort

theorem crcChar_inv (h : s.Inv) (hsvc : s.svc = .none) (hcrc : s.inCrc = true) : (crcChar b s).Inv := by
  have habort := abortable_of_inv h hsvc
  unfold crcChar
  split
  · split
    · obtain ⟨hlegal, hbuf, hphase, hframe, ht⟩ := h
      refine ⟨hlegal, hbuf, ?_, hframe, ht⟩
      simp_all [PhaseSound]
    · exact discard_inv _ habort
  · exact discard_inv _ habort

theorem payloadChar_inv (h : s.Inv) (hsvc : s.svc = .none) (hkind : s.commandKind.isPayload = true)
    (hrun : payloadChar b s = .next t) : t.Inv := by
  unfold payloadChar at hrun
  split at hrun
  next hcrc => cases hrun; exact crcChar_inv h hsvc hcrc
  next hcrc =>
    split at hrun
    next d hd => exact hexChar_inv h hsvc hkind (by simpa using hcrc) hd hrun
    · split at hrun
      · cases hrun; exact separator_inv h hsvc
      · split at hrun
        · cases hrun; exact hashMark_inv h hsvc hkind
        · cases hrun; exact discard_inv _ (abortable_of_inv h hsvc)

/-! ### The header (R165 to R167) -/

/-- The sixth character of a header, in: the line becomes a frame or is skipped, whatever the scratch cells hold. -/
theorem headerComplete_inv {c : Scratch} {n : Fin 7} (h : s.Inv) (hsvc : s.svc = .none) :
    (headerComplete { s with scratch := c, scratchLen := n }).Inv := by
  have habort := abortable_of_inv h hsvc
  unfold headerComplete
  split
  next k _ =>
    obtain ⟨hlegal, hbuf, hphase, hframe, ht⟩ := h
    refine ⟨hlegal, hbuf, ?_, ?_, transactionSound_parser (s := s) ht hsvc⟩
    · cases k <;> simp [PhaseSound, startFrame, kindOf, CommandKind.isPayload]
    · cases k <;> simp [FrameSound, startFrame, kindOf]
  · exact discard_inv _ habort

/-- A character behind the first leaves the first cell alone. -/
theorem scratch_set_c0 (c : Scratch) {i : Nat} (b : Byte) (h : i ≠ 0) : (c.set i b).c0 = c.c0 := by
  unfold Scratch.set
  split <;> simp_all

theorem headerChar_inv (h : s.Inv) (hsvc : s.svc = .none) (hkind : s.commandKind = .none)
    (hrun : headerChar b s = .next t) : t.Inv := by
  unfold headerChar at hrun
  split at hrun
  · cases hrun; exact discard_inv _ (abortable_of_inv h hsvc)
  next hstart =>
    split at hrun
    · dsimp only at hrun
      split at hrun
      · cases hrun; exact headerComplete_inv h hsvc
      next hlen hnot =>
        cases hrun
        obtain ⟨hlegal, hbuf, ⟨hheader, -, -, hrest⟩, hframe, ht⟩ := h
        refine ⟨hlegal, hbuf, ⟨fun _ => ⟨?_, fun _ => ?_⟩, ?_, ?_, hrest⟩, hframe,
          transactionSound_parser (s := s) ht hsvc⟩
        · have hne : s.scratchLen.val + 1 ≠ 6 := fun he => hnot (Fin.ext he)
          show s.scratchLen.val + 1 ≤ 5
          omega
        · show (s.scratch.set s.scratchLen.val b).c0 = charPlus
          by_cases hz : s.scratchLen = 0
          · simpa [hz, Scratch.set] using hstart
          · rw [scratch_set_c0 _ _ (Fin.val_ne_zero_iff.mpr hz)]
            exact (hheader hkind).2 hz
        · simp [hkind]
        · simp [hkind, CommandKind.isPayload]
    · cases hrun

/-! ### The end of a line (R200 to R208) -/

/-- A chain of checks passes where its first check passes and the rest of it does. -/
theorem ite_some_eq_none {α : Type} {p : Prop} [Decidable p] {x : α} {e : Option α} :
    (if p then some x else e) = none ↔ ¬p ∧ e = none := by
  by_cases h : p <;> simp [h]

theorem frame_of_frameCheck (h : frameCheck s = none) : s.scratchLen = 0 ∧ s.frameBytes ≠ 0#16 := by
  rw [frameCheck, ite_some_eq_none, ite_some_eq_none] at h
  obtain ⟨hpair, hbytes, -⟩ := h
  exact ⟨not_not.mp hpair, hbytes⟩

theorem request_of_requestCheck (h : requestCheck s = none) :
    s.svcLen ≠ 0#8 ∧ (s.commandKind = .masterRequest → s.outboundState = .idle) := by
  simp only [requestCheck, ite_some_eq_none] at h
  obtain ⟨-, hlen, hbusy, -⟩ := h
  exact ⟨hlen, fun hk => by simpa [hk] using hbusy⟩

/-- The start of a line with no frame in flight, in a state with the invariant (R43, R200). -/
abbrev LineOver (s : State) : Prop :=
  s.Inv ∧ s.commandKind = .none ∧ s.scratchLen = 0 ∧ s.inCrc = false ∧ s.crcDigits = 0 ∧ s.inboundActive = false

/-- A line that fails a check is over (R208). -/
theorem rejectLine_lineOver (r : Reason) (h : Abortable s) :
    LineOver { rejectLine r s with inCrc := false, crcDigits := 0 } := by
  refine ⟨discard_with_kind_inv r h rfl, rfl, ?_, rfl, rfl, rfl⟩
  simp [rejectLine, discard_eq]

/-- An accepted frame opens its callback window (R204, R205, R357). -/
theorem enterCallback_lineOver {kind : Svc} {e : Event} (h : s.Inv) (hsvc : s.svc = .none)
    (hkind : s.commandKind = .masterTransmit ∨ s.commandKind = .masterRequest) (hcheck : frameCheck s = none)
    (hrequest : kind = .request → s.outboundState = .idle ∧ s.svcLen ≠ 0#8) :
    LineOver { enterCallback kind e s with inCrc := false, crcDigits := 0 } := by
  obtain ⟨hpair, hbytes⟩ := frame_of_frameCheck hcheck
  obtain ⟨hlegal, hbuf, hphase, ⟨-, hactive, -, hlen, -, hother⟩, ht⟩ := h
  have hin : s.inboundActive = true := (hactive (hkind.imp_right .inl)).mpr hbytes
  have hlen := hlen hin
  obtain ⟨hwait, hbus⟩ := hother hin (by rcases hkind with hk | hk <;> simp [hk])
  refine ⟨⟨hlegal, ?_, ?_, ?_, ?_⟩, rfl, hpair, rfl, rfl, rfl⟩
  · exact buffersSound_inbound_position (s := s) hbuf hlen
  · simp_all [PhaseSound, enterCallback_eq, CommandKind.isPayload]
  · simp [FrameSound, enterCallback_eq]
  · obtain ⟨hawait, -, -, -, hlocked, hempty⟩ := ht
    exact ⟨hawait, fun hw => absurd hw (by simp [enterCallback_eq, hwait]), fun _ => ⟨rfl, hpair, hlen, hbus⟩,
      hrequest, hlocked, fun hl _ => hempty hl (by simp [hsvc])⟩

/-- Outside a payload no frame is in flight (R24). -/
theorem inboundActive_of_not_payload (h : s.Inv) (hk : s.commandKind.isPayload = false) : s.inboundActive = false := by
  obtain ⟨-, -, -, ⟨hframe, -⟩, -⟩ := h
  exact hframe hk

/-- A line that ends with nothing in flight is over (R201, R202, R206). -/
theorem lineOver_of_inactive (h : s.Inv) (hsvc : s.svc = .none) (hpair : s.scratchLen = 0)
    (hin : s.inboundActive = false) : LineOver { s with commandKind := .none, inCrc := false, crcDigits := 0 } := by
  obtain ⟨hlegal, hbuf, ⟨-, -, -, -, -, hcrc⟩, -, ht⟩ := h
  refine ⟨⟨hlegal, hbuf, ?_, ?_, transactionSound_parser (s := s) ht hsvc⟩, rfl, hpair, rfl, rfl, hin⟩
  · exact ⟨fun _ => ⟨by simp [hpair], fun hne => absurd hpair hne⟩, nofun, nofun, fun _ => rfl, fun _ => rfl,
      fun hc => ⟨rfl, (hcrc hc).2⟩⟩
  · simp [FrameSound, hin]

/-- The awaited response is complete (R207). -/
theorem acceptResponse_lineOver (h : s.Inv) (hkind : s.commandKind = .slaveResponse)
    (hcheck : frameCheck s = none) : LineOver { acceptResponse s with inCrc := false, crcDigits := 0 } := by
  obtain ⟨hpair, hbytes⟩ := frame_of_frameCheck hcheck
  obtain ⟨hlegal, hbuf, ⟨-, -, -, -, -, hcrc⟩, ⟨-, hactive, -, -, hresponse, -⟩, ht⟩ := h
  have hfilling : s.outboundState = .filling := hresponse ((hactive (.inr (.inr hkind))).mpr hbytes) hkind
  refine ⟨⟨hlegal, hbuf, ?_, ?_, ?_⟩, rfl, hpair, rfl, rfl, rfl⟩
  · exact ⟨fun _ => ⟨by simp [acceptResponse, hpair], fun hne => absurd hpair hne⟩, nofun, nofun, fun _ => rfl,
      fun _ => rfl, fun hc => ⟨rfl, (hcrc hc).2⟩⟩
  · simp [FrameSound, acceptResponse]
  · simp_all [TransactionSound, acceptResponse, awaiting, begun]

theorem endOfLine_lineOver (h : s.Inv) (hsvc : s.svc = .none) : LineOver (endOfLine s) := by
  have habort := abortable_of_inv h hsvc
  have hnone := inboundActive_of_not_payload h
  obtain ⟨-, -, ⟨-, hskip, -⟩, ⟨-, -, hdropped, -⟩, -⟩ := id h
  unfold endOfLine endBranch
  split
  next hk =>
    unfold endOfHeader
    split
    · exact rejectLine_lineOver _ habort
    next hempty =>
      have hover := lineOver_of_inactive h hsvc (not_not.mp hempty) (hnone (by rw [hk]; rfl))
      rwa [← hk] at hover
  next hk => exact lineOver_of_inactive (s := s) h hsvc (hskip hk) (hnone (by rw [hk]; rfl))
  next hk =>
    split
    next hcheck => exact enterCallback_lineOver h hsvc (.inl hk) hcheck nofun
    · exact rejectLine_lineOver _ habort
  next hk =>
    split
    next hcheck =>
      obtain ⟨hframe, hrequest⟩ : frameCheck s = none ∧ requestCheck s = none := by simpa using hcheck
      obtain ⟨hlen, hidle⟩ := request_of_requestCheck hrequest
      exact enterCallback_lineOver h hsvc (.inr hk) hframe fun _ => ⟨hidle hk, hlen⟩
    · exact rejectLine_lineOver _ habort
  next hk =>
    split
    next hcheck =>
      obtain ⟨hframe, -⟩ : frameCheck s = none ∧ requestCheck s = none := by simpa using hcheck
      exact lineOver_of_inactive (s := s) h hsvc (frame_of_frameCheck hframe).1 (hdropped hk).1
    · exact rejectLine_lineOver _ habort
  next hk =>
    split
    next hcheck => exact acceptResponse_lineOver h hk hcheck
    · exact rejectLine_lineOver _ habort

/-! ### Feed (R160) -/

theorem feedReady_inv (h : s.Inv) (hsvc : s.svc = .none) (hrun : feedReady b s = .next t) : t.Inv := by
  unfold feedReady at hrun
  split at hrun
  · cases hrun; exact (endOfLine_lineOver h hsvc).1
  · split at hrun
    · cases hrun; exact h
    · split at hrun
      next hk => cases hrun; exact h
      next hk => exact headerChar_inv h hsvc hk hrun
      all_goals
        next hk => exact payloadChar_inv h hsvc (by rw [hk]; rfl) hrun

/-- A text that runs fed its first byte to a ready port and the rest after it, or the port was stalled. -/
theorem feedText_cons_next {bs : List Byte} (hrun : feedText (b :: bs) s = .next t) :
    (s.svc = .none ∧ ∃ u, feedReady b s = .next u ∧ feedText bs u = .next t) ∨ t = s.hold (b :: bs) := by
  by_cases hsvc : s.svc = .none
  · simp only [feedText, hsvc, if_true] at hrun
    split at hrun
    next u hu => exact .inl ⟨hsvc, u, hu, hrun⟩
    · cases hrun
    · cases hrun
  · rw [feedText_stalled hsvc] at hrun
    cases hrun
    exact .inr rfl

theorem feedText_inv {bs : List Byte} (h : s.Inv) (hrun : feedText bs s = .next t) : t.Inv := by
  induction bs generalizing s with
  | nil => cases hrun; exact h
  | cons b bs ih =>
    rcases feedText_cons_next hrun with ⟨hsvc, u, hu, hrest⟩ | rfl
    · exact ih (feedReady_inv h hsvc hu) hrest
    · exact h

theorem feedText_singleton (b : Byte) (s : State) : feedText [b] s = feed b s := by
  by_cases hsvc : s.svc = .none
  · rw [feed_ready hsvc]
    simp only [feedText, hsvc, if_true]
    split <;> simp_all
  · rw [feed_stalled hsvc, feedText_stalled hsvc]

end

/-! ### The receive operations -/

theorem exec_of_encode_byte {i : Instr} {b : Byte} (h : encode i = .byte b) (s : State) : exec i s = feed b s := by
  cases i <;> cases h <;> rfl

theorem exec_of_encode_line {i : Instr} {text : List Byte} (h : encode i = .line text) (s : State) :
    exec i s = feedText text s := by
  cases i <;> cases h <;> rfl

/-- Every receive operation feeds the text that stands at the port for it (R2, R160, R181). -/
theorem exec_of_isReceive {i : Instr} (h : i.isReceive = true) : ∃ text, ∀ s, exec i s = feedText text s := by
  rcases he : encode i with b | text | w | _ | _
  · exact ⟨[b], fun s => (exec_of_encode_byte he s).trans (feedText_singleton b s).symm⟩
  · exact ⟨text, exec_of_encode_line he⟩
  all_goals cases i <;> cases he <;> cases h

/-- Settles O11: a receive operation is the feeding of its text, and a stalled port keeps the text. -/
theorem feedStalled : Obligations.FeedStalled := by
  intro i s hsvc
  refine ⟨fun b he => ?_, fun text he => ?_⟩
  · rw [exec_of_encode_byte he, feed_stalled hsvc]
    rfl
  · rw [exec_of_encode_line he, feedText_stalled hsvc]
    rfl

/-- Settles O23: every branch of the line's end leaves the start of a line. -/
theorem lineEndPhase : Obligations.LineEndPhase := by
  intro s h hsvc
  obtain ⟨-, hover⟩ := endOfLine_lineOver h hsvc
  exact ⟨endOfLine s, feed_ready hsvc, hover⟩

end Sys2Proof.Machine
end

section
/-! SUPPORT. What each host command and each internal step can do (R250 to R266, R302 to R304): the next state, up to
what the ports and the allocator hold; and what a turn brings (R70). -/

namespace Sys2Proof.Machine

variable {s t : State} {a b : Byte}

/-- WRITE refuses, or leaves `outbound` with the byte behind the others or released (R256). -/
theorem cmdWrite_next (h : exec (.cmdWrite a b) s = .next t) :
    (∃ st, t = s.respond st 0) ∨
      writable s = true ∧ s.outbound.length < s.cfg.maxLen - 1 ∧
        ∃ buf, (buf = s.outbound.pushed s.cfg a ∨ buf = Buffer.cleared 0) ∧
          ∃ rs reqs gs n,
            t = { s with outbound := buf, responses := rs, allocReqs := reqs, grants := gs, draws := n } := by
  cases h
  split
  · exact .inl ⟨_, rfl⟩
  next hw =>
    split
    · exact .inl ⟨_, rfl⟩
    next hroom =>
      refine .inr ⟨by simpa using hw, Nat.lt_of_not_le hroom, ?_⟩
      rcases hu : bufWrite .outbound a s with ⟨ok, u⟩
      cases ok
      · obtain ⟨reqs, gs, n, rfl⟩ := bufWrite_false hu
        exact ⟨_, .inr rfl, _, _, _, _, rfl⟩
      · obtain ⟨reqs, gs, n, rfl⟩ := bufWrite_true hu
        exact ⟨_, .inl rfl, _, _, _, _, rfl⟩

/-- ENDTX refuses, or ends the transmission with `outbound` cleared (R257). -/
theorem cmdEndtx_next (h : exec (.cmdEndtx a b) s = .next t) :
    (∃ st, t = s.respond st 0) ∨
      s.outboundState = .locked ∧ ∃ items rs reqs, t = { s with
        outbound := Buffer.cleared (clearedCap s.cfg s.outbound)
        outboundState := .idle
        tx := items
        responses := rs
        allocReqs := reqs } := by
  cases h
  split
  · exact .inl ⟨_, rfl⟩
  next hlocked =>
    refine .inr ⟨not_not.mp hlocked, ?_⟩
    dsimp only
    split
    · exact ⟨_, _, _, by rw [emitFrame_eq, closeTransmission, bufClear_outbound_eq]; rfl⟩
    · exact ⟨_, _, _, by rw [closeTransmission, bufClear_outbound_eq]; rfl⟩

/-- REQFROM refuses, or begins the wait with the address alone in `inbound`, or loses `inbound` to a refused growth
(R258). -/
theorem cmdReqfrom_next (h : exec (.cmdReqfrom a b) s = .next t) :
    (∃ st, t = s.respond st 0) ∨
      requestRefusal a b s = none ∧
        ((∃ items rs reqs gs n, t = { s with
            inbound := (resetBuffer s.cfg s.inbound).pushed s.cfg a
            outboundState := .fillingWait
            reqAddr := a
            reqCount := b
            waitActive := true
            waitTimer := s.timeout
            tx := items
            responses := rs
            allocReqs := reqs
            grants := gs
            draws := n }) ∨
          ∃ rs reqs gs n, t = { s with
            inbound := Buffer.cleared 0
            outboundState := .idle
            responses := rs
            allocReqs := reqs
            grants := gs
            draws := n }) := by
  cases h
  split
  · exact .inl ⟨_, rfl⟩
  next hnone =>
    refine .inr ⟨hnone, ?_⟩
    rw [resetInbound_eq]
    split
    next u hu =>
      obtain ⟨reqs, gs, n, rfl⟩ := bufWrite_true hu
      exact .inl ⟨_, _, _, _, _, rfl⟩
    next u hu =>
      obtain ⟨reqs, gs, n, rfl⟩ := bufWrite_false hu
      exact .inr ⟨_, _, _, _, rfl⟩

/-- READ moves the cursor past a byte that is there, or answers NotAvailable (R260). -/
theorem cmdRead_next (h : exec (.cmdRead a b) s = .next t) :
    (∃ v, t = s.respond .notAvailable v) ∨
      s.inbound.position < s.inbound.length ∧
        ∃ v, t = { s with inbound := { s.inbound with position := s.inbound.position + 1 } }.respond .ok v := by
  cases h
  split
  next v hv => exact .inr ⟨Buffer.lt_length_of_read hv, _, rfl⟩
  · exact .inl ⟨_, rfl⟩

/-- CBDONE closes the window, if one is open, and clears the buffers it used (R259). -/
theorem cmdCbdone_next (h : exec (.cmdCbdone a b) s = .next t) :
    t = s.respond .noCallback 0 ∨
      (s.svc = .receive ∧ ∃ rs reqs, t = { s with
        inbound := Buffer.cleared (clearedCap s.cfg s.inbound)
        svc := .none
        responses := rs
        allocReqs := reqs }) ∨
      s.svc = .request ∧ ∃ items rs reqs gs n, t = { s with
        inbound := Buffer.cleared (clearedCap s.cfg s.inbound)
        outbound := Buffer.cleared (clearedCap s.cfg (padOutbound s.svcLen.toNat s).outbound)
        svc := .none
        tx := items
        responses := rs
        allocReqs := reqs
        grants := gs
        draws := n } := by
  cases h
  split
  · exact .inl rfl
  next hsvc => exact .inr (.inl ⟨hsvc, _, _, by rw [bufClear_inbound_eq]; rfl⟩)
  next hsvc =>
    refine .inr (.inr ⟨hsvc, ?_⟩)
    obtain ⟨buf, reqs, gs, n, hpad⟩ := padOutbound_frame s.svcLen.toNat s
    unfold finishRequest
    dsimp only
    rw [hpad, emitFrame_eq, bufClear_outbound_eq, bufClear_inbound_eq]
    exact ⟨_, _, _, _, _, rfl⟩

/-- R304(c), whole: the rest of a half-received response line is thrown away, any other line goes on. -/
theorem abortResponseLine_eq (s : State) :
    abortResponseLine s =
      { s with
        diag := if s.commandKind = .slaveResponse ∧ s.cfg.diagEnable = true then s.diag ++ [.timeoutAbort] else s.diag
        commandKind := if s.commandKind = .slaveResponse then .discard else s.commandKind
        inboundActive := if s.commandKind = .slaveResponse then false else s.inboundActive
        scratchLen := if s.commandKind = .slaveResponse then 0 else s.scratchLen
        inCrc := if s.commandKind = .slaveResponse then false else s.inCrc
        crcDigits := if s.commandKind = .slaveResponse then 0 else s.crcDigits } := by
  unfold abortResponseLine State.diagnose
  by_cases hk : s.commandKind = .slaveResponse <;> by_cases hd : s.cfg.diagEnable = true <;> simp [hk, hd]

/-- ReqComplete has nothing to do, or ends the wait with the response delivered, or ends it without one (R304). -/
theorem reqComplete_next (h : exec .reqComplete s = .next t) :
    t = s ∨
      s.waitActive = true ∧
        ((s.outboundState = .filled ∧ s.inbound.read 0 = some s.reqAddr ∧
            t = endWait .ok (s.reqCount.setWidth 16) { s with inbound := { s.inbound with position := 1 } }) ∨
          ∃ reqs, t = endWait .timeout 0 (abortResponseLine { s with
            inbound := Buffer.cleared (clearedCap s.cfg s.inbound), allocReqs := reqs })) := by
  cases h
  split
  next henabled =>
    refine .inr ⟨by simp [reqCompleteEnabled] at henabled; exact henabled.1, ?_⟩
    unfold completeRequest
    split
    next hready =>
      obtain ⟨hfilled, hread⟩ : s.outboundState = .filled ∧ s.inbound.read 0 = some s.reqAddr := by
        simpa [responseReady] using hready
      exact .inl ⟨hfilled, hread, rfl⟩
    · exact .inr ⟨_, by rw [bufClear_inbound_eq]⟩
  · exact .inl rfl

/-- Settles O46: both releases and the reset of the registers written out. -/
theorem endAndReset : Obligations.EndAndReset := by
  refine ⟨fun a b s => ?_, fun s ag ha => ?_⟩
  · show Host.Outcome.next _ = _
    rw [bufRelease_inbound_eq, bufRelease_outbound_eq]
    cases hw : s.waitActive
    · simp only [Bool.false_eq_true, if_false, List.append_nil]
      rfl
    · rfl
  · simp only [step, fetch, ha]
    rfl

/-- The state a turn leaves to what runs in it. -/
def Turn.state : Turn → State
  | .run _ s => s
  | .idle s => s
  | .reset s => s

@[simp] theorem runStimulus_state (x : Stimulus) (s : State) : (runStimulus x s).state = s := by
  unfold runStimulus
  split <;> rfl

theorem fetchByte_state (s : State) : ∃ rx, (fetchByte s).state = { s with rx := rx } := by
  unfold fetchByte
  split
  · exact ⟨_, runStimulus_state ..⟩
  · exact ⟨s.rx, rfl⟩

/-- A turn consumes what it brings and leaves the block as it is (R11, R45). -/
theorem fetch_state (s : State) : ∃ rx cs ag, (fetch s).state = { s with rx := rx, cmds := cs, agenda := ag } := by
  unfold fetch
  split
  · exact ⟨s.rx, s.cmds, s.agenda, runStimulus_state ..⟩
  next ag _ =>
    obtain ⟨rx, hrx⟩ := fetchByte_state { s with agenda := ag }
    exact ⟨rx, s.cmds, ag, hrx⟩
  next ag _ =>
    split
    next bs _ => exact ⟨bs, s.cmds, ag, rfl⟩
    · obtain ⟨rx, hrx⟩ := fetchByte_state { s with agenda := ag }
      exact ⟨rx, s.cmds, ag, hrx⟩
  next ag _ =>
    split
    next ws _ => exact ⟨s.rx, ws, ag, runStimulus_state ..⟩
    · exact ⟨s.rx, s.cmds, ag, rfl⟩
  next ag _ => exact ⟨s.rx, s.cmds, ag, runStimulus_state ..⟩
  next ag _ => exact ⟨s.rx, s.cmds, ag, runStimulus_state ..⟩
  next ag _ => exact ⟨s.rx, s.cmds, ag, rfl⟩

/-- A turn consumes what it brings and leaves the block as it is; then its operation runs, or nothing does, or the block
is reset (R11, R45, R70, R390). -/
theorem step_next (h : step s = .next t) :
    ∃ rx cs ag, (∃ i, exec i { s with rx := rx, cmds := cs, agenda := ag } = .next t) ∨
      t = { s with rx := rx, cmds := cs, agenda := ag } ∨
        t = resetBlock { s with rx := rx, cmds := cs, agenda := ag } := by
  obtain ⟨rx, cs, ag, hstate⟩ := fetch_state s
  refine ⟨rx, cs, ag, ?_⟩
  rw [← hstate]
  unfold step at h
  split at h
  next i u hturn => exact .inl ⟨i, by rwa [hturn]⟩
  next u hturn => cases h; exact .inr (.inl (by rw [hturn]; rfl))
  next u hturn => cases h; exact .inr (.inr (by rw [hturn]; rfl))

end Sys2Proof.Machine
end

section
/-! SUPPORT. The host commands, the internal steps and the reset input keep the invariant; so does every step. -/

namespace Sys2Proof.Machine

variable {s t : State} {a b : Byte}

/-! ### Session (R251 to R253) -/

/-- A session opens where none was: no transaction and no frame refers to the own address (R21). -/
theorem openSession_inv {o : OwnAddress} (h : s.Inv) (hclosed : s.ownAddress = .uninitialized)
    (ho : o ≠ .uninitialized) : State.Inv { s with ownAddress := o } := by
  obtain ⟨hlegal, hbuf, hphase, hframe, ht⟩ := h
  refine ⟨hlegal, hbuf, hphase, ?_, ?_⟩
  · simp_all [FrameSound, OwnAddress.isBus]
  · simp_all [TransactionSound, OwnAddress.isBus, begun, awaiting]

theorem cmdBegin_inv (h : s.Inv) (hrun : exec (.cmdBegin a b) s = .next t) : t.Inv := by
  cases hrun
  split
  · exact h
  next hclosed =>
    split
    · exact h
    · exact openSession_inv (s := s) h (not_not.mp hclosed) nofun

theorem cmdBeginm_inv (h : s.Inv) (hrun : exec (.cmdBeginm a b) s = .next t) : t.Inv := by
  cases hrun
  split
  · exact h
  · split
    · exact h
    next hclosed => exact openSession_inv (s := s) h (not_not.mp hclosed) nofun

theorem cmdEnd_inv (h : s.Inv) (hrun : exec (.cmdEnd a b) s = .next t) : t.Inv := by
  obtain ⟨hlegal, -⟩ := h
  rw [endAndReset.1] at hrun
  cases hrun
  exact initial_scratch_inv s.scratch hlegal

/-! ### Sending (R255 to R257) -/

theorem free_of_not_busy (h : transactionBusy s = false) :
    s.outboundState = .idle ∧ s.waitActive = false ∧ s.svc = .none := by
  simpa [transactionBusy, and_assoc] using h

theorem cmdBegintx_inv (h : s.Inv) (hrun : exec (.cmdBegintx a b) s = .next t) : t.Inv := by
  cases hrun
  split
  · exact h
  next hopen =>
    split
    · exact h
    next hfree =>
      obtain ⟨hidle, hwait, hsvc⟩ := free_of_not_busy (by simpa using hfree)
      obtain ⟨hlegal, hbuf, hphase, hframe, ht⟩ := h
      refine ⟨hlegal, hbuf, hphase, ?_, ?_⟩
      · simp_all [FrameSound]
      · simp_all [TransactionSound, awaiting, begun]

theorem cmdWrite_inv (h : s.Inv) (hrun : exec (.cmdWrite a b) s = .next t) : t.Inv := by
  rcases cmdWrite_next hrun with ⟨st, rfl⟩ | ⟨hwritable, hroom, buf, hbuf', rs, reqs, gs, n, rfl⟩
  · exact h
  obtain ⟨hlegal, hbuf, hphase, hframe, ht⟩ := h
  have hwritten : BuffersSound { s with outbound := buf } := by
    rcases hbuf' with rfl | rfl
    · exact buffersSound_outbound_pushed a hlegal hbuf hroom
    · exact buffersSound_outbound_released hbuf
  refine ⟨hlegal, hwritten, hphase, hframe, ?_⟩
  obtain ⟨hawait, hwait, hsvc, hrequest, hlocked, -⟩ := ht
  refine ⟨hawait, hwait, hsvc, hrequest, hlocked, fun hl hr => ?_⟩
  simp [writable, hl, hr] at hwritable

theorem cmdEndtx_inv (h : s.Inv) (hrun : exec (.cmdEndtx a b) s = .next t) : t.Inv := by
  rcases cmdEndtx_next hrun with ⟨st, rfl⟩ | ⟨hlocked, items, rs, reqs, rfl⟩
  · exact h
  obtain ⟨hlegal, hbuf, hphase, hframe, ht⟩ := h
  refine ⟨hlegal, buffersSound_outbound_cleared hbuf, hphase, ?_, ?_⟩
  · simp_all [FrameSound]
  · simp_all [TransactionSound, awaiting, begun]

/-! ### Requesting and reading (R258, R260) -/

/-- What the checks of REQFROM have made sure of when all pass (R258). -/
theorem free_of_requestRefusal {n : Byte} (h : requestRefusal a n s = none) :
    s.cfg.roleMaster = true ∧ begun s = true ∧ s.outboundState = .idle ∧ s.waitActive = false ∧ s.svc = .none ∧
      s.inboundActive = false ∧ n ≠ 0#8 ∧ a.toNat ≤ 0x7F ∧ a ≠ s.ownAddress.code := by
  simp only [requestRefusal, ite_some_eq_none] at h
  obtain ⟨hmaster, hopen, hfree, hcount, haddr, hother, -⟩ := h
  obtain ⟨hnone, hin⟩ : transactionBusy s = false ∧ s.inboundActive = false := by simpa using hfree
  obtain ⟨hidle, hwait, hsvc⟩ := free_of_not_busy hnone
  exact ⟨by simpa using hmaster, by simpa using hopen, hidle, hwait, hsvc, hin, hcount, Nat.le_of_not_lt haddr, hother⟩

theorem cmdReqfrom_inv (h : s.Inv) (hrun : exec (.cmdReqfrom a b) s = .next t) : t.Inv := by
  rcases cmdReqfrom_next hrun with ⟨st, rfl⟩ | ⟨hpass, hsent⟩
  · exact h
  obtain ⟨hmaster, hopen, hidle, hwait, hsvc, hin, hcount, haddr, hother⟩ := free_of_requestRefusal hpass
  obtain ⟨hlegal, hbuf, hphase, hframe, ht⟩ := h
  have hlong := hlegal.1
  obtain ⟨hinSound, hinLen⟩ := inbound_sound hbuf
  have hempty := resetBuffer_length s.cfg s.inbound
  have hreset := resetBuffer_sound hinSound hinLen
  rcases hsent with ⟨items, rs, reqs, gs, n, rfl⟩ | ⟨rs, reqs, gs, n, rfl⟩
  · have hread : ((resetBuffer s.cfg s.inbound).pushed s.cfg a).read 0 = some a := by
      rw [← hempty]
      exact Buffer.read_pushed_length s.cfg (resetBuffer s.cfg s.inbound) a
    refine ⟨hlegal, buffersSound_inbound (s := s) hbuf (Buffer.pushed_sound a (blockSize_pos hlegal) hreset (by omega))
      (by rw [Buffer.pushed_length]; omega), hphase, ?_, ?_⟩
    · simp_all [FrameSound]
    · simp_all [TransactionSound, begun]
  · refine ⟨hlegal, buffersSound_inbound_released hbuf, hphase, ?_, ?_⟩
    · simp_all [FrameSound]
    · simp_all [TransactionSound, awaiting]

theorem cmdRead_inv (h : s.Inv) (hrun : exec (.cmdRead a b) s = .next t) : t.Inv := by
  rcases cmdRead_next hrun with ⟨v, rfl⟩ | ⟨hleft, v, rfl⟩
  · exact h
  obtain ⟨hlegal, hbuf, hphase, hframe, ht⟩ := h
  exact ⟨hlegal, buffersSound_inbound_position (s := s) hbuf hleft, hphase, hframe, ht⟩

/-! ### The end of a callback (R259) -/

/-- The padding leaves `outbound` sound and within its bound. -/
theorem padOutbound_buffersSound (n : Nat) (hlegal : s.cfg.Legal) (h : BuffersSound s) :
    BuffersSound (padOutbound n s) := by
  induction n generalizing s with
  | zero => exact h
  | succ n ih =>
    unfold padOutbound
    split
    next hroom =>
      rcases hu : bufWrite .outbound Config.filler s with ⟨ok, u⟩
      cases ok
      · obtain ⟨reqs, gs, m, rfl⟩ := bufWrite_false hu
        exact buffersSound_outbound_released (s := s) h
      · obtain ⟨reqs, gs, m, rfl⟩ := bufWrite_true hu
        exact ih hlegal (buffersSound_outbound_pushed (s := s) _ hlegal h hroom.2)
    · exact h

/-- A callback window closes: no wait is in progress, no frame in flight (R266). -/
theorem closeWindow_inv {bin bout : Buffer} (h : s.Inv) (hsvc : s.svc ≠ .none)
    (hbuf : BuffersSound { s with inbound := bin, outbound := bout })
    (hempty : s.outboundState ≠ .locked → bout.length = 0) :
    State.Inv { s with inbound := bin, outbound := bout, svc := .none } := by
  obtain ⟨hlegal, -, hphase, ⟨hframe, -⟩, hawait, hwait, hwindow, -, hlocked, -⟩ := h
  obtain ⟨hkind, -⟩ := hwindow hsvc
  have hin : s.inboundActive = false := hframe (by rw [hkind]; rfl)
  have hnowait : s.waitActive = false := by
    by_contra hw
    obtain ⟨-, -, hnone, -⟩ := hwait (by simpa using hw)
    exact hsvc hnone
  refine ⟨hlegal, hbuf, hphase, ?_, ?_, ?_, ?_, ?_, hlocked, fun hl _ => hempty hl⟩
  · simp [FrameSound, hin, hkind]
  · exact fun ha => absurd (hawait ha).1 (by simp [hnowait])
  · simp [hnowait]
  · exact fun hs => absurd rfl hs
  · exact nofun

theorem cmdCbdone_inv (h : s.Inv) (hrun : exec (.cmdCbdone a b) s = .next t) : t.Inv := by
  rcases cmdCbdone_next hrun with rfl | ⟨hsvc, rs, reqs, rfl⟩ | ⟨hsvc, items, rs, reqs, gs, n, rfl⟩
  · exact h
  · obtain ⟨-, hbuf, -, -, -, -, -, -, -, hempty⟩ := id h
    exact closeWindow_inv h (by simp [hsvc]) (buffersSound_inbound_cleared hbuf) fun hl => hempty hl (by simp [hsvc])
  · obtain ⟨hlegal, hbuf, -⟩ := id h
    have hcleared := buffersSound_outbound_cleared (padOutbound_buffersSound s.svcLen.toNat hlegal hbuf)
    obtain ⟨buf, reqs', gs', n', hpad⟩ := padOutbound_frame s.svcLen.toNat s
    rw [hpad] at hcleared ⊢
    exact closeWindow_inv h (by simp [hsvc]) (buffersSound_inbound_cleared hcleared) fun _ => rfl

/-! ### The end of a wait (R304) -/

/-- No frame but the awaited response is in flight during a wait (R27). -/
theorem inboundActive_of_wait (h : s.Inv) (hwait : s.waitActive = true) (hk : s.commandKind ≠ .slaveResponse) :
    s.inboundActive = false := by
  obtain ⟨-, -, -, ⟨-, -, -, -, -, hother⟩, -⟩ := h
  by_contra hin
  obtain ⟨hnowait, -⟩ := hother (by simpa using hin) hk
  simp [hwait] at hnowait

/-- The wait ends with nothing left in flight (R304). -/
theorem endWait_inv {st : WaitStatus} {v : Half} (hlegal : s.cfg.Legal) (hbuf : BuffersSound s) (hphase : PhaseSound s)
    (hframe : FrameSound s) (hin : s.inboundActive = false) (hsvc : s.svc = .none) (hempty : s.outbound.length = 0) :
    (endWait st v s).Inv := by
  refine ⟨hlegal, hbuf, hphase, ?_, ?_⟩
  · simp_all [FrameSound, endWait_eq]
  · simp [TransactionSound, endWait_eq, awaiting, hsvc, hempty]

theorem reqComplete_inv (h : s.Inv) (hrun : exec .reqComplete s = .next t) : t.Inv := by
  rcases reqComplete_next hrun with rfl | ⟨hwait, hdone⟩
  · exact h
  have hother := inboundActive_of_wait h hwait
  have hfilled := inboundActive_of_filled h
  obtain ⟨hlegal, hbuf, hphase, hframe, -, hready, -, -, -, hempty⟩ := h
  obtain ⟨-, -, hsvc, hlocked, -⟩ := hready hwait
  have hempty := hempty hlocked (by simp [hsvc])
  rcases hdone with ⟨hfull, hread, rfl⟩ | ⟨reqs, rfl⟩
  · exact endWait_inv (s := { s with inbound := { s.inbound with position := 1 } }) hlegal
      (buffersSound_inbound_position hbuf (Buffer.lt_length_of_read hread)) hphase hframe (hfilled hfull) hsvc hempty
  · have hcleared := buffersSound_inbound_cleared hbuf
    rw [abortResponseLine_eq]
    by_cases hk : s.commandKind = .slaveResponse
    · simp only [hk, if_true]
      refine endWait_inv hlegal hcleared ?_ ?_ rfl hsvc hempty
      · simp_all [PhaseSound, CommandKind.isPayload]
      · simp [FrameSound]
    · simp only [hk, if_false]
      refine endWait_inv hlegal hcleared hphase ?_ (hother hk) hsvc hempty
      simp_all [FrameSound]

/-! ### Every step -/

theorem tick_inv (h : s.Inv) (hrun : exec .tick s = .next t) : t.Inv := by
  cases hrun
  split
  · exact h
  · exact h

/-- Every operation keeps the invariant. -/
theorem exec_inv {i : Instr} (h : s.Inv) (hrun : exec i s = .next t) : t.Inv := by
  by_cases hreceive : i.isReceive = true
  · obtain ⟨text, hfeed⟩ := exec_of_isReceive hreceive
    exact feedText_inv h ((hfeed s).symm.trans hrun)
  cases i with
  | cmdNop a b => cases hrun; exact h
  | cmdReserved op a b => cases hrun; exact h
  | cmdAvail a b => cases hrun; exact h
  | cmdSetto a b => cases hrun; exact h
  | cmdPeek a b => cases hrun; split <;> exact h
  | cmdRdreg a b => cases hrun; split <;> exact h
  | cmdBegin a b => exact cmdBegin_inv h hrun
  | cmdBeginm a b => exact cmdBeginm_inv h hrun
  | cmdEnd a b => exact cmdEnd_inv h hrun
  | cmdBegintx a b => exact cmdBegintx_inv h hrun
  | cmdWrite a b => exact cmdWrite_inv h hrun
  | cmdEndtx a b => exact cmdEndtx_inv h hrun
  | cmdReqfrom a b => exact cmdReqfrom_inv h hrun
  | cmdRead a b => exact cmdRead_inv h hrun
  | cmdCbdone a b => exact cmdCbdone_inv h hrun
  | tick => exact tick_inv h hrun
  | reqComplete => exact reqComplete_inv h hrun
  | _ => exact absurd rfl hreceive

/-- Settles O40: every operation keeps the invariant, and the reset input establishes it. -/
theorem stepKeepsInv : Obligations.StepKeepsInv := by
  intro s t h hrun
  rcases step_next hrun with ⟨rx, cs, ag, ⟨i, hexec⟩ | rfl | rfl⟩
  · exact exec_inv (s := { s with rx := rx, cmds := cs, agenda := ag }) h hexec
  · exact h
  · exact initial_inv h.1

end Sys2Proof.Machine
end

section
/-! SUPPORT. Which operation writes which register (R21 to R36, R50): what no receive operation touches, then every
operation in turn. -/

namespace Sys2Proof.Machine

/-! ### What no receive operation touches -/

/-- The parameters and the registers that no rule of 41_rx_parser and 42_rx_dispatch writes. -/
def State.unheard (s : State) :
    Config × OwnAddress × Byte × Byte × Byte × Bool × Half × Half × Half × WaitStatus × Buffer :=
  (s.cfg, s.ownAddress, s.txAddr, s.reqAddr, s.reqCount, s.waitActive, s.waitTimer, s.timeout, s.result, s.resultStatus,
    s.outbound)

/-- A receive operation may lead from `s` to `t`: those registers stand, and `outboundState` has not been locked
(R23). -/
abbrev Heard (s t : State) : Prop :=
  t.unheard = s.unheard ∧ (t.outboundState = s.outboundState ∨ t.outboundState ≠ .locked)

section
variable {s t u : State} {b v : Byte}

theorem Heard.refl (s : State) : Heard s s := ⟨rfl, .inl rfl⟩

theorem Heard.trans (h : Heard s t) (h' : Heard t u) : Heard s u := by
  obtain ⟨hsame, hout⟩ := h
  obtain ⟨hsame', hout'⟩ := h'
  exact ⟨hsame'.trans hsame, by grind⟩

theorem heard_discard (r : Reason) (s : State) : Heard s (discard r s) := by
  rw [discard_eq]
  refine ⟨rfl, ?_⟩
  cases awaiting s
  · exact .inl rfl
  · exact .inr nofun

theorem heard_bufWrite (v : Byte) (s : State) : Heard s (bufWrite .inbound v s).2 := by
  obtain ⟨b, reqs, gs, n, hw⟩ := bufWrite_frame .inbound v s
  rw [hw]
  exact ⟨rfl, .inl rfl⟩

theorem heard_appendInbound (v : Byte) (s : State) : Heard s (appendInbound v s) := by
  unfold appendInbound
  split
  · exact heard_discard _ s
  · have hwrite := heard_bufWrite v s
    generalize bufWrite .inbound v s = written at hwrite ⊢
    obtain ⟨ok, w⟩ := written
    cases ok
    · exact hwrite.trans (heard_discard _ w)
    · exact hwrite

theorem heard_acceptAddress (v : Byte) (s : State) : Heard s (acceptAddress v s) := by
  unfold acceptAddress
  rw [resetInbound_eq]
  exact heard_appendInbound v _

theorem heard_transmitByte (v : Byte) (s : State) : Heard s (transmitByte v s) := by
  unfold transmitByte
  split
  · split
    · exact heard_discard _ s
    · split
      · exact heard_discard _ s
      · exact heard_acceptAddress v s
  · exact heard_appendInbound v s

theorem heard_requestByte (v : Byte) (s : State) : Heard s (requestByte v s) := by
  unfold requestByte
  split
  · split
    · exact heard_discard _ s
    · split
      · exact ⟨rfl, .inl rfl⟩
      · split
        · exact heard_discard _ s
        · exact heard_acceptAddress v s
  · split
    · exact heard_appendInbound v _
    · exact heard_discard _ s

theorem heard_nackedRequestByte (v : Byte) (s : State) : Heard s (nackedRequestByte v s) := by
  unfold nackedRequestByte
  split
  · exact ⟨rfl, .inl rfl⟩
  · exact heard_discard _ s

theorem heard_responseByte (v : Byte) (s : State) : Heard s (responseByte v s) := by
  unfold responseByte
  split
  · split
    · exact ⟨rfl, .inr nofun⟩
    · exact heard_discard _ s
  · split
    · exact heard_appendInbound v s
    · exact heard_discard _ s

theorem heard_payloadByte (v : Byte) (s : State) : Heard s (payloadByte v s) := by
  unfold payloadByte
  split
  · exact heard_transmitByte v _
  · exact heard_requestByte v _
  · exact heard_nackedRequestByte v _
  · exact heard_responseByte v _
  · exact ⟨rfl, .inl rfl⟩
  · exact ⟨rfl, .inl rfl⟩

theorem heard_crcChar (b : Byte) (s : State) : Heard s (crcChar b s) := by
  unfold crcChar
  split
  · split
    · exact ⟨rfl, .inl rfl⟩
    · exact heard_discard _ s
  · exact heard_discard _ s

theorem heard_separator (s : State) : Heard s (separator s) := by
  unfold separator
  split
  · exact heard_discard _ s
  · exact .refl s

theorem heard_hashMark (s : State) : Heard s (hashMark s) := by
  unfold hashMark
  split
  · split
    · exact ⟨rfl, .inl rfl⟩
    · exact heard_discard _ s
  · exact heard_discard _ s

theorem heard_hexChar {d : BitVec 4} (h : hexChar b d s = .next t) : Heard s t := by
  unfold hexChar at h
  split at h
  · cases h; exact ⟨rfl, .inl rfl⟩
  · split at h
    · cases h; exact heard_payloadByte _ { s with scratchLen := 0 }
    · cases h

theorem heard_payloadChar (h : payloadChar b s = .next t) : Heard s t := by
  unfold payloadChar at h
  split at h
  · cases h; exact heard_crcChar b s
  · split at h
    · exact heard_hexChar h
    · split at h
      · cases h; exact heard_separator s
      · split at h
        · cases h; exact heard_hashMark s
        · cases h; exact heard_discard _ s

theorem heard_headerComplete (s : State) : Heard s (headerComplete s) := by
  unfold headerComplete
  split
  · exact ⟨rfl, .inl rfl⟩
  · exact heard_discard _ s

theorem heard_headerChar (h : headerChar b s = .next t) : Heard s t := by
  unfold headerChar at h
  split at h
  · cases h; exact heard_discard _ s
  · split at h
    · dsimp only at h
      split at h
      · cases h; exact heard_headerComplete _
      · cases h; exact ⟨rfl, .inl rfl⟩
    · cases h

theorem heard_endBranch (s : State) : Heard s (endBranch s) := by
  have hreject (r : Reason) : Heard s (rejectLine r s) := heard_discard r s
  unfold endBranch
  split
  · unfold endOfHeader
    split
    · exact hreject _
    · exact .refl s
  · exact ⟨rfl, .inl rfl⟩
  · split
    · exact ⟨rfl, .inl rfl⟩
    · exact hreject _
  · split
    · exact ⟨rfl, .inl rfl⟩
    · exact hreject _
  · split
    · exact ⟨rfl, .inl rfl⟩
    · exact hreject _
  · split
    · exact ⟨rfl, .inr nofun⟩
    · exact hreject _

theorem heard_feedReady (h : feedReady b s = .next t) : Heard s t := by
  unfold feedReady at h
  split at h
  · cases h; exact heard_endBranch s
  · split at h
    · cases h; exact .refl s
    · split at h
      · cases h; exact .refl s
      · exact heard_headerChar h
      all_goals exact heard_payloadChar h

theorem heard_feedText {bs : List Byte} (h : feedText bs s = .next t) : Heard s t := by
  induction bs generalizing s with
  | nil => cases h; exact .refl _
  | cons b bs ih =>
    rcases feedText_cons_next h with ⟨-, u, hu, hrest⟩ | rfl
    · exact (heard_feedReady hu).trans (ih hrest)
    · exact ⟨rfl, .inl rfl⟩

end

/-! ### Every operation -/

/-- Settles O35: a receive operation by what it leaves alone, every other operation by what it can do. -/
theorem registerWriters : Obligations.RegisterWriters := by
  intro i s t hrun
  by_cases hreceive : i.isReceive = true
  · obtain ⟨text, hfeed⟩ := exec_of_isReceive hreceive
    obtain ⟨hsame, hout⟩ := heard_feedText ((hfeed s).symm.trans hrun)
    simp only [State.unheard, Prod.mk.injEq] at hsame
    obtain ⟨hcfg, hown, htx, hreq, hcount, hwait, htimer, htimeout, hresult, hstatus, hbuf⟩ := hsame
    rcases hout with hstays | hunlocked
    · simp [*]
    · simp [*]
  cases i with
  | cmdNop a b => cases hrun; simp
  | cmdReserved op a b => cases hrun; simp
  | cmdAvail a b => cases hrun; simp
  | cmdSetto a b => cases hrun; simp
  | cmdPeek a b => cases hrun; split <;> simp
  | cmdRdreg a b => cases hrun; split <;> simp
  | cmdBegin a b =>
    cases hrun
    split
    · simp
    · split <;> simp
  | cmdBeginm a b =>
    cases hrun
    split
    · simp
    · split <;> simp
  | cmdEnd a b =>
    rw [endAndReset.1] at hrun
    cases hrun
    simp [State.initial, Buffer.empty]
  | cmdBegintx a b =>
    cases hrun
    split
    · simp
    · split
      · simp
      next hfree =>
        obtain ⟨hidle, -⟩ := free_of_not_busy (by simpa using hfree)
        simp [hidle]
  | cmdWrite a b =>
    rcases cmdWrite_next hrun with ⟨st, rfl⟩ | ⟨-, -, buf, -, rs, reqs, gs, n, rfl⟩
    · simp
    · simp
  | cmdEndtx a b =>
    rcases cmdEndtx_next hrun with ⟨st, rfl⟩ | ⟨hlocked, items, rs, reqs, rfl⟩
    · simp
    · simp [hlocked]
  | cmdReqfrom a b =>
    rcases cmdReqfrom_next hrun with ⟨st, rfl⟩ | ⟨hpass, hsent⟩
    · simp
    obtain ⟨-, -, hidle, -⟩ := free_of_requestRefusal hpass
    rcases hsent with ⟨items, rs, reqs, gs, n, rfl⟩ | ⟨rs, reqs, gs, n, rfl⟩
    · simp [hidle]
    · simp [hidle]
  | cmdRead a b =>
    rcases cmdRead_next hrun with ⟨v, rfl⟩ | ⟨hleft, v, rfl⟩
    · simp
    · simp
  | cmdCbdone a b =>
    rcases cmdCbdone_next hrun with rfl | ⟨-, rs, reqs, rfl⟩ | ⟨-, items, rs, reqs, gs, n, rfl⟩
    · simp
    · simp
    · simp
  | tick => cases hrun; split <;> simp
  | reqComplete =>
    rcases reqComplete_next hrun with rfl | ⟨-, ⟨-, -, rfl⟩ | ⟨reqs, rfl⟩⟩
    · simp
    · simp [endWait_eq]
    · simp [endWait_eq, abortResponseLine_eq]
  | _ => exact absurd rfl hreceive

end Sys2Proof.Machine
end

section
/-! SUPPORT. The register map (R46 to R48): the packed registers as numbers, and what RDREG answers. -/

namespace Sys2Proof.Machine

@[simp] theorem bit_toNat (b : Bool) : (bit b).toNat = b.toNat := BitVec.toNat_ofBool b

/-- STATE as a number, its fields from bit 0 up (R47). -/
theorem stateWord_toNat (s : State) :
    (stateWord s).toNat =
      s.commandKind.code.toNat + 8 * s.outboundState.code.toNat + 64 * s.inboundActive.toNat +
        128 * s.waitActive.toNat + 256 * s.svc.code.toNat + 1024 * s.inCrc.toNat + 2048 * s.crcDigits.val := by
  have hdigits := s.crcDigits.isLt
  simp only [stateWord, append_toNat, bit_toNat, BitVec.toNat_ofNat]
  omega

/-- CONFIG as a number (R48). -/
theorem configWord_toNat (cfg : Config) :
    (configWord cfg).toNat =
      cfg.roleMaster.toNat + 2 * cfg.crcEnable.toNat + 4 * cfg.allocCanFail.toNat + 8 * cfg.diagEnable.toNat := by
  simp only [configWord, append_toNat, bit_toNat, BitVec.toNat_ofNat]
  omega

/-- A register that the map lists is answered, and nothing else moves (R264). -/
theorem cmdRdreg_shows {s : State} {r v : Nat} {w : Half} (b : Byte) (h : readReg s (BitVec.ofNat 8 r) = some w)
    (hw : w = BitVec.ofNat 16 v) :
    exec (.cmdRdreg (BitVec.ofNat 8 r) b) s =
      .next { s with responses := s.responses ++ [⟨.ok, BitVec.ofNat 16 v⟩] } := by
  show Host.Outcome.next _ = _
  rw [h, hw]
  rfl

/-- The map ends at register 23 (R46). -/
theorem readReg_of_gt {s : State} {r : Byte} (h : 23 < r.toNat) : readReg s r = none := by
  unfold readReg
  split <;> simp_all

/-- A value of at most 16 bits, as RDREG extends it (R46). -/
theorem setWidth_eq_ofNat {n : Nat} (x : BitVec n) : x.setWidth 16 = BitVec.ofNat 16 x.toNat :=
  (BitVec.ofNat_toNat 16 x).symm

theorem half_eq_ofNat {w : Half} {v : Nat} (h : w.toNat = v) : w = BitVec.ofNat 16 v := by
  rw [← h, BitVec.ofNat_toNat, BitVec.setWidth_eq]

theorem commandKind_codes : ∀ k ∈ [(CommandKind.none, 0), (.discard, 1), (.masterTransmit, 2), (.masterRequest, 3),
    (.slaveResponse, 4), (.sendDiscarded, 5)], k.1.code.toNat = k.2 := by decide

theorem outboundState_codes : ∀ o ∈ [(OutboundState.idle, 0), (.locked, 1), (.fillingWait, 2), (.filling, 3),
    (.filled, 4)], o.1.code.toNat = o.2 := by decide

theorem svc_codes : ∀ v ∈ [(Svc.none, 0), (.receive, 1), (.request, 2)], v.1.code.toNat = v.2 := by decide

/-- Settles O55: the map read register by register. -/
theorem registerMap : Obligations.RegisterMap := by
  intro b s
  have word {r : Nat} {w : Half} (h : readReg s (BitVec.ofNat 8 r) = some w) := cmdRdreg_shows b h (half_eq_ofNat rfl)
  have byte {r : Nat} {x : Byte} (h : readReg s (BitVec.ofNat 8 r) = some (x.setWidth 16)) :=
    cmdRdreg_shows b h (setWidth_eq_ofNat x)
  have counter {r n : Nat} (h : readReg s (BitVec.ofNat 8 r) = some (half n)) := cmdRdreg_shows b h rfl
  refine ⟨fun h => ?uninitialized, fun h => ?masterOnly, fun a h => ?bus,
    fun k hk o ho v hv hkind hout hsvc => ?state, word rfl, word rfl,
    counter rfl, counter rfl, counter rfl, counter rfl, counter rfl, counter rfl, word rfl,
    fun h => ?ok, fun h => ?timeout, fun h => ?aborted, byte rfl, byte rfl, byte rfl, byte rfl, word rfl, word rfl, word rfl, counter rfl, ?config, counter rfl, counter rfl, counter rfl,
    fun r hr => ?beyond⟩
  case uninitialized => exact cmdRdreg_shows b rfl (by rw [h]; rfl)
  case masterOnly => exact cmdRdreg_shows b rfl (by rw [h]; rfl)
  case bus =>
    have hcode : (OwnAddress.bus a).code.toNat = a.toNat := BitVec.toNat_setWidth_of_le (by decide)
    exact cmdRdreg_shows b rfl (by rw [h, setWidth_eq_ofNat, hcode])
  case state =>
    have hword := stateWord_toNat s
    rw [hkind, hout, hsvc, commandKind_codes k hk, outboundState_codes o ho, svc_codes v hv] at hword
    exact cmdRdreg_shows b rfl (half_eq_ofNat hword)
  case ok => exact cmdRdreg_shows b rfl (by rw [h]; rfl)
  case timeout => exact cmdRdreg_shows b rfl (by rw [h]; rfl)
  case aborted => exact cmdRdreg_shows b rfl (by rw [h]; rfl)
  case config => exact cmdRdreg_shows b rfl (half_eq_ofNat (configWord_toNat _))
  case beyond =>
    show Host.Outcome.next _ = _
    rw [readReg_of_gt hr]
    rfl

end Sys2Proof.Machine
end

section
/-! SUPPORT. A line fed to a ready parser, part by part: the header, the payload's pairs, the suffix, the line feed
(R161 to R181, R200 to R204, R320 to R323). -/

namespace Sys2Proof.Machine

/-! ### The header (R166) -/

section
variable {s : State} {b : Byte} {d : Scratch} {n : Fin 7}

theorem feedReady_header (hkind : s.commandKind = .none) (hb : b ≠ charLF ∧ b ≠ charCR) :
    feedReady b s = headerChar b s := by
  rw [feedReady, if_neg hb.1, if_neg hb.2, hkind]

/-- A header character before the sixth goes into the next scratch cell (R165, R166). -/
theorem feedText_header_char (rest : List Byte) (hsvc : s.svc = .none) (hkind : s.commandKind = .none)
    (hb : b ≠ charLF ∧ b ≠ charCR) (hn : n.val < 5) (hstart : n = 0 → b = charPlus) :
    feedText (b :: rest) { s with scratch := d, scratchLen := n } =
      feedText rest { s with scratch := d.set n b, scratchLen := ⟨n.val + 1, by omega⟩ } := by
  refine feedText_cons hsvc ?_
  have hnext : (⟨n.val + 1, by omega⟩ : Fin 7) ≠ 6 := fun h => by simp [Fin.ext_iff] at h; omega
  rw [feedReady_header (by exact hkind) hb, headerChar, if_neg (fun h => h.2 (hstart h.1)),
    dif_pos (by show n.val < 6; omega)]
  exact if_neg hnext

/-- The sixth header character completes the header (R166). -/
theorem feedText_sixth_char (rest : List Byte) (hsvc : s.svc = .none) (hkind : s.commandKind = .none)
    (hb : b ≠ charLF ∧ b ≠ charCR) :
    feedText (b :: rest) { s with scratch := d, scratchLen := 5 } =
      feedText rest (headerComplete { s with scratch := d.set 5 b, scratchLen := 6 }) := by
  refine feedText_cons hsvc ?_
  rw [feedReady_header (by exact hkind) hb]
  rfl

end

/-- Six characters from the start of a line, the first a `+` and none a line byte, fill the scratch cells and are
compared (R165, R166). -/
theorem feedText_header_cells {s : State} {c : Scratch} (rest : List Byte) (h : ParserReady s) (hplus : c.c0 = charPlus)
    (hbody : ∀ b ∈ c.cells, b ≠ charLF ∧ b ≠ charCR) :
    feedText (c.cells ++ rest) s = feedText rest (headerComplete { s with scratch := c, scratchLen := 6 }) := by
  obtain ⟨hkind, hlen, hsvc⟩ := h
  simp only [Scratch.cells, List.forall_mem_cons] at hbody
  obtain ⟨h0, h1, h2, h3, h4, h5, -⟩ := hbody
  have hs : s = { s with scratch := s.scratch, scratchLen := 0 } := by rw [← hlen]
  rw [hs]
  exact (feedText_header_char (n := 0) _ hsvc hkind h0 (by decide) fun _ => hplus).trans <|
    (feedText_header_char (n := 1) _ hsvc hkind h1 (by decide) nofun).trans <|
    (feedText_header_char (n := 2) _ hsvc hkind h2 (by decide) nofun).trans <|
    (feedText_header_char (n := 3) _ hsvc hkind h3 (by decide) nofun).trans <|
    (feedText_header_char (n := 4) _ hsvc hkind h4 (by decide) nofun).trans <|
    feedText_sixth_char rest hsvc hkind h5

/-- The header of a keyword opens its frame (R92, R166). -/
theorem feedText_header {s : State} (k : Keyword) (rest : List Byte) (h : ParserReady s) :
    ∃ c, feedText (header k ++ rest) s = feedText rest (startFrame k { s with scratch := c }) := by
  have hcells : ∃ c : Scratch, c.cells = header k ∧ c.c0 = charPlus := by
    cases k
    · exact ⟨⟨_, _, _, _, _, _⟩, rfl, rfl⟩
    · exact ⟨⟨_, _, _, _, _, _⟩, rfl, rfl⟩
    · exact ⟨⟨_, _, _, _, _, _⟩, rfl, rfl⟩
  obtain ⟨c, hc, hplus⟩ := hcells
  have hbody : ∀ b ∈ header k, b ≠ charLF ∧ b ≠ charCR := by cases k <;> decide
  have hmatch : matchHeader (header k) = some k := by cases k <;> decide
  refine ⟨c, ?_⟩
  rw [← hc] at hbody hmatch ⊢
  rw [feedText_header_cells rest h hplus hbody, headerComplete, hmatch]
  rfl

/-! ### A pair of digits (R169) -/

/-- A payload is being parsed and its next pair has not begun (R161). -/
abbrev BetweenPairs (s : State) : Prop :=
  s.svc = .none ∧ s.commandKind.isPayload = true ∧ s.inCrc = false ∧ s.scratchLen = 0

/-- Inside a payload every character but the two line bytes is a payload character (R160, R168). -/
theorem feedReady_payload {s : State} {b : Byte} (h : s.commandKind.isPayload = true) (hlf : b ≠ charLF)
    (hcr : b ≠ charCR) : feedReady b s = payloadChar b s := by
  rw [feedReady, if_neg hlf, if_neg hcr]
  cases hk : s.commandKind <;> simp_all [CommandKind.isPayload]

/-- A digit of a payload's pair (R168). -/
theorem feedReady_digit {s : State} (n : BitVec 4) (h : s.commandKind.isPayload = true) (hcrc : s.inCrc = false) :
    feedReady (hexDigit n) s = hexChar (hexDigit n) n s := by
  rw [feedReady_payload h (hexDigit_ne_lf n) (hexDigit_ne_cr n), payloadChar, hcrc, hexVal?_hexDigit]
  rfl

theorem hexChar_first {s : State} {b : Byte} {d : BitVec 4} (h : s.scratchLen = 0) :
    hexChar b d s = .next { s with scratch := { s.scratch with c0 := b }, scratchLen := 1 } := if_pos h

theorem hexChar_second {s : State} {b : Byte} {hi d : BitVec 4} (h : s.scratchLen ≠ 0)
    (hc : hexVal? s.scratch.c0 = some hi) :
    hexChar b d s = .next (payloadByte (pairValue hi d) { s with scratchLen := 0 }) := by
  rw [hexChar, if_neg h, hc]

/-- The two digits of a byte are one payload byte (R169). -/
theorem feedText_hex2 {s : State} (v : Byte) (rest : List Byte) (h : BetweenPairs s) :
    ∃ c, feedText (hex2 v ++ rest) s = feedText rest (payloadByte v { s with scratch := c }) := by
  obtain ⟨hsvc, hkind, hcrc, hlen⟩ := h
  have hfirst := (feedReady_digit (v.extractLsb' 4 4) hkind hcrc).trans (hexChar_first hlen)
  obtain ⟨c, hc, hfirst⟩ : ∃ c : Scratch, c.c0 = hexDigit (v.extractLsb' 4 4) ∧
      feedReady (hexDigit (v.extractLsb' 4 4)) s = .next { s with scratch := c, scratchLen := 1 } := ⟨_, rfl, hfirst⟩
  have hsecond : feedReady (hexDigit (v.extractLsb' 0 4)) { s with scratch := c, scratchLen := 1 } =
      .next (payloadByte v { s with scratch := c, scratchLen := 0 }) := by
    rw [feedReady_digit _ (by exact hkind) (by exact hcrc),
      hexChar_second (hi := v.extractLsb' 4 4) (by simp) (by rw [hc, hexVal?_hexDigit]), pairValue_halves]
  refine ⟨c, ?_⟩
  rw [hex2, List.cons_append, feedText_cons hsvc hfirst, hlen]
  exact feedText_cons (by exact hsvc) hsecond

/-! ### The payload (R170 to R176) -/

/-- The checksum after further payload bytes (R323). -/
def sumAfter (cfg : Config) (acc : Half) (data : List Byte) : Half :=
  if cfg.crcEnable then data.foldl (crcUpdate cfg) acc else acc

/-- `s` after the payload bytes `data` were counted (R170), with this `inbound`, and whatever the scratch cells and the
allocator's side hold. -/
def withPayload (data : List Byte) (buf : Buffer) (c : Scratch) (reqs : List AllocReq) (gs : List Bool) (s : State) :
    State :=
  { s with
    inbound := buf
    frameBytes := half (s.frameBytes.toNat + data.length)
    crcAcc := sumAfter s.cfg s.crcAcc data
    scratch := c
    allocReqs := reqs
    grants := gs }

/-- The byte count before it saturates (R13(2), R29). -/
theorem satSucc_eq_half {x : Half} (h : x.toNat + 1 ≤ 65535) : satSucc x = half (x.toNat + 1) := by
  unfold satSucc half
  split
  · simp_all
  · bv_omega

theorem maxLen_le {cfg : Config} (h : cfg.Legal) : cfg.maxLen ≤ 65535 := by
  obtain ⟨-, hmax, -⟩ := h
  exact hmax

theorem half_toNat {n : Nat} (h : n ≤ 65535) : (half n).toNat = n := by
  rw [half, BitVec.toNat_ofNat]
  omega

theorem grantsFor_mono {m n : Nat} {s : State} (h : GrantsFor n s) (hmn : m ≤ n) : GrantsFor m s := by
  intro hfail
  obtain ⟨hlen, hgranted⟩ := h hfail
  exact ⟨hmn.trans hlen, fun g hg => hgranted g (List.take_subset_take_left _ hmn hg)⟩

/-- A granted growth leaves the grants listed behind it (R131). -/
theorem grantsFor_appendGrants {n : Nat} {s : State} (b : Buffer) (h : GrantsFor (n + 1) s) :
    GrantsFor n { s with grants := appendGrants b s } := by
  intro hfail
  obtain ⟨hlen, hgranted⟩ := h hfail
  have hnow : n ≤ s.grants.length ∧ ∀ g ∈ s.grants.take n, g = true :=
    ⟨by omega, fun g hg => hgranted g (List.take_subset_take_left _ (Nat.le_succ n) hg)⟩
  have hlater : n ≤ s.grants.tail.length ∧ ∀ g ∈ s.grants.tail.take n, g = true := by
    cases hgs : s.grants <;> simp_all
  show n ≤ (appendGrants b s).length ∧ ∀ g ∈ (appendGrants b s).take n, g = true
  unfold appendGrants
  split
  · exact hlater
  · exact hnow

/-- An append that fits into the frame and into what the allocator grants (R176). -/
theorem appendInbound_granted {s : State} (v : Byte) (hroom : s.inbound.length < s.cfg.maxLen) (hg : GrantsFor 1 s) :
    appendInbound v s = { s with
      inbound := s.inbound.pushed s.cfg v
      allocReqs := s.allocReqs ++ appendRequest .inbound s.cfg s.inbound
      grants := appendGrants s.inbound s } := by
  rw [appendInbound, if_neg (Nat.not_le.mpr hroom), bufWrite_granted v hg]
  rfl

theorem bytes_pushed (cfg : Config) (buf : Buffer) (v : Byte) : (buf.pushed cfg v).bytes = buf.bytes ++ [v] :=
  Buffer.bytes_append { buf with capacity := appendedCap cfg buf } v

/-- A frame in flight whose further bytes all go into `inbound` (R172, R175). -/
abbrev TakesData (s : State) : Prop :=
  BetweenPairs s ∧ s.frameBytes ≠ 0#16 ∧
    (s.commandKind = .masterTransmit ∨
      s.commandKind = .slaveResponse ∧ s.outboundState = .filling ∧ s.inboundActive = true)

theorem payloadByte_of_takesData {s : State} (v : Byte) (h : TakesData s) :
    payloadByte v s = appendInbound v (countPayload v s) := by
  obtain ⟨-, hbytes, hkind⟩ := h
  have hlater : (countPayload v s).frameBytes ≠ 1#16 := mt (satSucc_eq_one_iff _).mp hbytes
  unfold payloadByte
  rcases hkind with hk | ⟨hk, hfilling, hactive⟩
  · rw [hk]
    exact if_neg hlater
  · rw [hk]
    exact (if_neg hlater).trans (if_pos ⟨hfilling, hactive⟩)

theorem countPayload_eq {s : State} (v : Byte) (h : s.frameBytes.toNat + 1 ≤ 65535) :
    countPayload v s = withPayload [v] s.inbound s.scratch s.allocReqs s.grants s := by
  simp only [countPayload, withPayload, sumAfter, satSucc_eq_half h, List.foldl_cons, List.foldl_nil,
    List.length_singleton]

theorem withPayload_withPayload {s : State} {xs ys : List Byte} (h : s.frameBytes.toNat + xs.length ≤ 65535)
    (b b' : Buffer) (c c' : Scratch) (reqs reqs' : List AllocReq) (gs gs' : List Bool) :
    withPayload ys b' c' reqs' gs' (withPayload xs b c reqs gs s) = withPayload (xs ++ ys) b' c' reqs' gs' s := by
  have hcount : (half (s.frameBytes.toNat + xs.length)).toNat + ys.length = s.frameBytes.toNat + (xs ++ ys).length := by
    rw [half_toNat h, List.length_append]
    omega
  have hsum : sumAfter s.cfg (sumAfter s.cfg s.crcAcc xs) ys = sumAfter s.cfg s.crcAcc (xs ++ ys) := by
    unfold sumAfter
    split
    · rw [List.foldl_append]
    · rfl
  simp only [withPayload, hcount, hsum]

theorem payloadByte_appends {s : State} (v : Byte) (h : TakesData s) (hbytes : s.frameBytes.toNat + 1 ≤ 65535)
    (hroom : s.inbound.length < s.cfg.maxLen) (hg : GrantsFor 1 s) :
    payloadByte v s = withPayload [v] (s.inbound.pushed s.cfg v) s.scratch
      (s.allocReqs ++ appendRequest .inbound s.cfg s.inbound) (appendGrants s.inbound s) s := by
  rw [payloadByte_of_takesData v h, countPayload_eq v hbytes, appendInbound_granted v (by exact hroom) (by exact hg)]
  rfl

/-- One further payload byte of a frame in flight (R169, R176). -/
theorem feedText_data_byte {s : State} (v : Byte) (rest : List Byte) (h : TakesData s)
    (hbytes : s.frameBytes.toNat + 1 ≤ 65535) (hroom : s.inbound.length < s.cfg.maxLen) (hg : GrantsFor 1 s) :
    ∃ c reqs, feedText (hex2 v ++ rest) s =
      feedText rest (withPayload [v] (s.inbound.pushed s.cfg v) c reqs (appendGrants s.inbound s) s) := by
  obtain ⟨c, hpair⟩ := feedText_hex2 v rest h.1
  rw [hpair, payloadByte_appends (s := { s with scratch := c }) v h hbytes hroom hg]
  exact ⟨c, _, rfl⟩

/-- Further payload bytes stand behind those that `inbound` holds, in order (R66, R172, R175). -/
theorem feedText_data {s : State} (data rest : List Byte) (h : TakesData s)
    (hbytes : s.frameBytes.toNat + data.length ≤ 65535) (hroom : s.inbound.length + data.length ≤ s.cfg.maxLen)
    (hg : GrantsFor data.length s) :
    ∃ buf c reqs gs, feedText (data.flatMap hex2 ++ rest) s = feedText rest (withPayload data buf c reqs gs s) ∧
      buf.bytes = s.inbound.bytes ++ data ∧ buf.length = s.inbound.length + data.length ∧
      buf.position = s.inbound.position := by
  induction data generalizing s with
  | nil =>
    have hsame : withPayload [] s.inbound s.scratch s.allocReqs s.grants s = s := by
      simp [withPayload, sumAfter, half]
    exact ⟨s.inbound, s.scratch, s.allocReqs, s.grants, by rw [hsame]; rfl, by simp, rfl, rfl⟩
  | cons v data ih =>
    rw [List.length_cons] at hbytes hroom hg
    have hfirst : s.frameBytes.toNat + 1 ≤ 65535 := by omega
    obtain ⟨c, reqs, hbyte⟩ := feedText_data_byte v (data.flatMap hex2 ++ rest) h hfirst (by omega)
      (grantsFor_mono hg (by omega))
    have hframe : TakesData (withPayload [v] (s.inbound.pushed s.cfg v) c reqs (appendGrants s.inbound s) s) := by
      obtain ⟨hpairs, -, hkind⟩ := h
      exact ⟨hpairs, by show half (_ + 1) ≠ _; rw [← satSucc_eq_half hfirst]; exact satSucc_ne_zero _, hkind⟩
    obtain ⟨buf, c', reqs', gs, hrest, hcontent, hlength, hposition⟩ := ih hframe
      (by show (half (s.frameBytes.toNat + 1)).toNat + _ ≤ _; rw [half_toNat hfirst]; omega)
      (by show s.inbound.length + 1 + _ ≤ s.cfg.maxLen; omega) (grantsFor_appendGrants s.inbound hg)
    rw [withPayload_withPayload hfirst] at hrest
    refine ⟨buf, c', reqs', gs, ?_, ?_, ?_, hposition⟩
    · rw [List.flatMap_cons, List.append_assoc, hbyte, hrest]
      rfl
    · rw [hcontent]
      show (s.inbound.pushed s.cfg v).bytes ++ data = _
      rw [bytes_pushed, List.append_assoc]
      rfl
    · rw [hlength, List.length_cons]
      show s.inbound.length + 1 + _ = _
      omega

/-! ### The whole payload of a transmit line (R172) -/

theorem payloadByte_of_transmit_address {s : State} {addr : Byte} (hkind : s.commandKind = .masterTransmit)
    (hbytes : s.frameBytes = 0#16) (hmatch : addrMatch s addr = true) (hidle : s.outboundState = .idle)
    (hwait : s.waitActive = false) : payloadByte addr s = acceptAddress addr (countPayload addr s) := by
  have hfirst : (countPayload addr s).frameBytes = 1#16 := (satSucc_eq_one_iff _).mpr hbytes
  have hforUs : addrMatch (countPayload addr s) addr = true := hmatch
  have hfree : ¬((countPayload addr s).outboundState ≠ .idle ∨ (countPayload addr s).waitActive = true) := by
    simp [countPayload, hidle, hwait]
  rw [payloadByte, hkind]
  show transmitByte addr (countPayload addr s) = _
  rw [transmitByte, if_pos hfirst, hforUs, if_neg (by simp), if_neg hfree]

theorem payloadByte_accepts {s : State} {addr : Byte} (hkind : s.commandKind = .masterTransmit)
    (hbytes : s.frameBytes = 0#16) (hmatch : addrMatch s addr = true) (hidle : s.outboundState = .idle)
    (hwait : s.waitActive = false) (hroom : 1 ≤ s.cfg.maxLen) (hg : GrantsFor 1 s) :
    payloadByte addr s = { withPayload [addr] ((resetBuffer s.cfg s.inbound).pushed s.cfg addr) s.scratch
        (s.allocReqs ++ resetRequest s ++ appendRequest .inbound s.cfg (resetBuffer s.cfg s.inbound))
        (appendGrants (resetBuffer s.cfg s.inbound) s) s with inboundActive := true } := by
  have hempty : (resetBuffer s.cfg s.inbound).length < s.cfg.maxLen := by rwa [resetBuffer_length]
  rw [payloadByte_of_transmit_address hkind hbytes hmatch hidle hwait, countPayload_eq addr (by simp [hbytes]),
    acceptAddress, resetInbound_eq, appendInbound_granted addr (by exact hempty) (by exact hg)]
  rfl

/-- The address byte of a transmit line for this block opens the frame and stands alone in `inbound` (R140, R172). -/
theorem feedText_transmit_address {s : State} (addr : Byte) (rest : List Byte) (h : BetweenPairs s)
    (hkind : s.commandKind = .masterTransmit) (hbytes : s.frameBytes = 0#16) (hmatch : addrMatch s addr = true)
    (hidle : s.outboundState = .idle) (hwait : s.waitActive = false) (hroom : 1 ≤ s.cfg.maxLen) (hg : GrantsFor 1 s) :
    ∃ c reqs, feedText (hex2 addr ++ rest) s =
      feedText rest { withPayload [addr] ((resetBuffer s.cfg s.inbound).pushed s.cfg addr) c reqs
        (appendGrants (resetBuffer s.cfg s.inbound) s) s with inboundActive := true } := by
  obtain ⟨c, hpair⟩ := feedText_hex2 addr rest h
  rw [hpair, payloadByte_accepts (s := { s with scratch := c }) hkind hbytes hmatch hidle hwait hroom hg]
  exact ⟨c, _, rfl⟩

theorem resetBuffer_bytes (cfg : Config) (b : Buffer) : (resetBuffer cfg b).bytes = [] := by
  rw [Buffer.bytes, resetBuffer_length]
  rfl

/-- The payload of a transmit line for this block stands in `inbound`, in order (R66, R172). -/
theorem feedText_transmit_payload {s : State} (addr : Byte) (data rest : List Byte) (h : BetweenPairs s)
    (hkind : s.commandKind = .masterTransmit) (hbytes : s.frameBytes = 0#16) (hmatch : addrMatch s addr = true)
    (hidle : s.outboundState = .idle) (hwait : s.waitActive = false) (hlegal : s.cfg.Legal)
    (hroom : data.length + 1 ≤ s.cfg.maxLen) (hg : GrantsFor (data.length + 1) s) :
    ∃ buf c reqs gs, feedText ((addr :: data).flatMap hex2 ++ rest) s =
        feedText rest { withPayload (addr :: data) buf c reqs gs s with inboundActive := true } ∧
      buf.bytes = addr :: data ∧ buf.length = data.length + 1 := by
  have hmax := maxLen_le hlegal
  obtain ⟨c, reqs, haddr⟩ := feedText_transmit_address addr (data.flatMap hex2 ++ rest) h hkind hbytes hmatch hidle hwait
    (by omega) (grantsFor_mono hg (by omega))
  rw [List.flatMap_cons, List.append_assoc, haddr]
  have hempty := resetBuffer_length s.cfg s.inbound
  obtain ⟨buf, c', reqs', gs, hdata, hcontent, hlength, -⟩ := feedText_data data rest (s := { withPayload [addr]
      ((resetBuffer s.cfg s.inbound).pushed s.cfg addr) c reqs (appendGrants (resetBuffer s.cfg s.inbound) s) s with
        inboundActive := true })
    ⟨h, by simp [withPayload, hbytes, half], .inl hkind⟩
    (by simp [withPayload, hbytes, half]; omega) (by simp [withPayload, hempty]; omega)
    (grantsFor_appendGrants _ hg)
  refine ⟨buf, c', reqs', gs, hdata.trans ?_, ?_, ?_⟩
  · have hcount := withPayload_withPayload (s := s) (xs := [addr]) (ys := data) (by simp [hbytes])
      ((resetBuffer s.cfg s.inbound).pushed s.cfg addr) buf c c' reqs reqs'
      (appendGrants (resetBuffer s.cfg s.inbound) s) gs
    exact congrArg (fun u : State => feedText rest { u with inboundActive := true }) hcount
  · rw [hcontent]
    show ((resetBuffer s.cfg s.inbound).pushed s.cfg addr).bytes ++ data = _
    rw [bytes_pushed, resetBuffer_bytes]
    rfl
  · rw [hlength]
    show (resetBuffer s.cfg s.inbound).length + 1 + _ = _
    omega

/-! ### The suffix and the line feed (R99, R178, R179, R200 to R204) -/

/-- `s` with a suffix received that satisfies the checks, where the integrity layer is present (R203). -/
def suffixed (s : State) : State :=
  { s with
    inCrc := s.cfg.crcEnable
    crcDigits := if s.cfg.crcEnable then 4 else 0
    crcRx := if s.cfg.crcEnable then s.crcAcc else s.crcRx }

theorem feedReady_hash {s : State} (hkind : s.commandKind.isPayload = true) (hcrc : s.inCrc = false)
    (hlen : s.scratchLen = 0) (hlayer : s.cfg.crcEnable = true) :
    feedReady charHash s = .next { s with inCrc := true } := by
  rw [feedReady_payload hkind (by decide) (by decide), payloadChar, hcrc]
  show Host.Outcome.next (hashMark s) = _
  rw [hashMark, if_pos hlayer, if_pos hlen]

/-- One digit of the suffix (R179). -/
theorem feedReady_crc_digit {s : State} (d : BitVec 4) (hkind : s.commandKind.isPayload = true) (hcrc : s.inCrc = true)
    (hroom : s.crcDigits.val < 4) :
    feedReady (hexDigit d) s =
      .next { s with crcRx := shiftDigit s.crcRx d, crcDigits := succDigits s.crcDigits } := by
  rw [feedReady_payload hkind (hexDigit_ne_lf d) (hexDigit_ne_cr d), payloadChar, if_pos hcrc, crcChar, hexVal?_hexDigit]
  exact congrArg _ (if_pos hroom)

/-- The four digits of a value leave it in `crcRx` (R65, R179). -/
theorem feedText_hex4 {s : State} (w : Half) (rest : List Byte) (hsvc : s.svc = .none)
    (hkind : s.commandKind.isPayload = true) (hcrc : s.inCrc = true) (hdigits : s.crcDigits = 0) (hrx : s.crcRx = 0#16) :
    feedText (hex4 w ++ rest) s = feedText rest { s with crcRx := w, crcDigits := 4 } := by
  have hdigit (d : BitVec 4) (v : Half) (n : Fin 5) (more : List Byte) (hn : n.val < 4) :
      feedText (hexDigit d :: more) { s with crcRx := v, crcDigits := n } =
        feedText more { s with crcRx := shiftDigit v d, crcDigits := succDigits n } :=
    feedText_cons hsvc (feedReady_crc_digit d (by exact hkind) (by exact hcrc) (by exact hn))
  have hs : s = { s with crcRx := 0#16, crcDigits := 0 } := by rw [← hdigits, ← hrx]
  rw [hs, hex4_eq]
  refine (hdigit _ _ 0 _ (by decide)).trans <| (hdigit _ _ 1 _ (by decide)).trans <|
    (hdigit _ _ 2 _ (by decide)).trans <| (hdigit _ _ 3 _ (by decide)).trans ?_
  rw [shiftDigit_digits]
  rfl

/-- The suffix that a sender of this configuration writes is the one the checks ask for (R99, R233, R323). -/
theorem feedText_suffix {s : State} (payload rest : List Byte) (h : BetweenPairs s) (hdigits : s.crcDigits = 0)
    (hrx : s.crcRx = 0#16) (hsum : s.crcAcc = sumAfter s.cfg Config.crcSeed payload) :
    feedText (Encode.suffix (lineSum s.cfg payload) ++ rest) s = feedText rest (suffixed s) := by
  obtain ⟨hsvc, hkind, hcrc, hlen⟩ := h
  cases hlayer : s.cfg.crcEnable with
  | true =>
    have hacc : frameSum s.cfg payload = s.crcAcc := by rw [hsum, sumAfter, if_pos hlayer, frameSum]
    have hdone : suffixed s = { s with inCrc := true, crcRx := s.crcAcc, crcDigits := 4 } := by simp [suffixed, hlayer]
    rw [lineSum, if_pos hlayer, hacc, hdone, Encode.suffix, List.cons_append,
      feedText_cons hsvc (feedReady_hash hkind hcrc hlen hlayer)]
    exact feedText_hex4 _ rest hsvc hkind rfl hdigits hrx
  | false =>
    have hdone : suffixed s = s := by cases s; simp_all [suffixed]
    rw [lineSum, hlayer, hdone]
    rfl

theorem frameCheck_suffixed {s : State} (hlen : s.scratchLen = 0) (hbytes : s.frameBytes ≠ 0#16) :
    frameCheck (suffixed s) = none := by
  cases hlayer : s.cfg.crcEnable <;> simp [frameCheck, suffixed, hlen, hbytes, hlayer]

/-- The line feed ends a frame that passes its checks (R200, R204). -/
theorem feedText_lf_transmit {s : State} (hsvc : s.svc = .none) (hkind : s.commandKind = .masterTransmit)
    (hcheck : frameCheck s = none) :
    feedText [charLF] s = .next { acceptTransmit s with inCrc := false, crcDigits := 0 } := by
  have hend : endBranch s = acceptTransmit s := by rw [endBranch, hkind]; simp only [hcheck]
  have hready : feedReady charLF s = .next (endOfLine s) := rfl
  rw [feedText_cons hsvc hready, endOfLine, hend]
  rfl

/-! ### A whole transmit line (R96) -/

/-- `s` at the line feed of a transmit line with this payload: the frame taken, its suffix in (R166, R172, R203). -/
def atLineEnd (payload : List Byte) (buf : Buffer) (c : Scratch) (reqs : List AllocReq) (gs : List Bool) (s : State) :
    State :=
  suffixed { withPayload payload buf c reqs gs (startFrame .i2ct s) with inboundActive := true }

/-- A transmit line for this block up to its line feed: the header, the payload, the suffix (R166, R172, R179). -/
theorem feedText_transmit_line {s : State} (addr : Byte) (data rest : List Byte) (h : ParserReady s)
    (hmatch : addrMatch s addr = true) (hidle : s.outboundState = .idle) (hwait : s.waitActive = false)
    (hlegal : s.cfg.Legal) (hroom : data.length + 1 ≤ s.cfg.maxLen) (hg : GrantsFor (data.length + 1) s) :
    ∃ buf c reqs gs,
      feedText (header .i2ct ++ ((addr :: data).flatMap hex2 ++
          (Encode.suffix (lineSum s.cfg (addr :: data)) ++ rest))) s =
        feedText rest (atLineEnd (addr :: data) buf c reqs gs s) ∧
      buf.bytes = addr :: data ∧ buf.length = data.length + 1 := by
  obtain ⟨-, -, hsvc⟩ := id h
  obtain ⟨c₀, hheader⟩ := feedText_header .i2ct
    ((addr :: data).flatMap hex2 ++ (Encode.suffix (lineSum s.cfg (addr :: data)) ++ rest)) h
  obtain ⟨buf, c, reqs, gs, hpayload, hbytes, hlength⟩ := feedText_transmit_payload
    (s := startFrame .i2ct { s with scratch := c₀ }) addr data (Encode.suffix (lineSum s.cfg (addr :: data)) ++ rest)
    ⟨hsvc, rfl, rfl, rfl⟩ rfl rfl hmatch hidle hwait hlegal hroom hg
  have hsuffix := feedText_suffix
    (s := { withPayload (addr :: data) buf c reqs gs (startFrame .i2ct s) with inboundActive := true })
    (addr :: data) rest ⟨hsvc, rfl, rfl, rfl⟩ rfl rfl rfl
  exact ⟨buf, c, reqs, gs, hheader.trans (hpayload.trans hsuffix), hbytes, hlength⟩

/-- `s` after a transmit line with this payload was delivered (R204). -/
def delivered (payload : List Byte) (buf : Buffer) (c : Scratch) (reqs : List AllocReq) (gs : List Bool) (s : State) :
    State :=
  { s with
    inbound := { buf with position := 1 }
    svc := .receive
    events := s.events ++ [.onReceive (half (buf.length - 1))]
    commandKind := .none
    scratchLen := 0
    frameBytes := half payload.length
    crcAcc := if s.cfg.crcEnable then frameSum s.cfg payload else 0xFFFF#16
    crcRx := if s.cfg.crcEnable then frameSum s.cfg payload else 0#16
    inboundActive := false
    inCrc := false
    crcDigits := 0
    scratch := c
    allocReqs := reqs
    grants := gs }

/-- The line feed of such a line delivers it (R200, R203, R204). -/
theorem feedText_lf_atLineEnd {s : State} {payload : List Byte} (buf : Buffer) (c : Scratch) (reqs : List AllocReq)
    (gs : List Bool) (h : ParserReady s) (hlen : 1 ≤ payload.length) (hmax : payload.length ≤ 65535) :
    feedText [charLF] (atLineEnd payload buf c reqs gs s) = .next (delivered payload buf c reqs gs s) := by
  obtain ⟨-, -, hsvc⟩ := h
  have hcount : half (0 + payload.length) = half payload.length := by rw [Nat.zero_add]
  have hbytes : half (0 + payload.length) ≠ 0#16 := fun hzero => by
    have hnat := half_toNat hmax
    rw [← hcount, hzero, BitVec.toNat_ofNat] at hnat
    omega
  have hrx : (if s.cfg.crcEnable then sumAfter s.cfg Config.crcSeed payload else 0#16) =
      if s.cfg.crcEnable then frameSum s.cfg payload else 0#16 := by
    cases hlayer : s.cfg.crcEnable <;> simp [sumAfter, frameSum, hlayer]
  have hcheck : frameCheck (atLineEnd payload buf c reqs gs s) = none := frameCheck_suffixed rfl hbytes
  rw [feedText_lf_transmit (s := atLineEnd payload buf c reqs gs s) hsvc rfl hcheck, delivered, ← hcount, ← hrx]
  rfl

/-- Settles O28: the line up to its line feed, then the line feed. -/
theorem transmitLineDelivered : Obligations.TransmitLineDelivered := by
  intro addr data s hinv hready hmatch hidle hwait hroom hg
  obtain ⟨hlegal, -⟩ := hinv
  obtain ⟨buf, c, reqs, gs, hline, hbytes, hlength⟩ :=
    feedText_transmit_line addr data [charLF] hready hmatch hidle hwait hlegal hroom hg
  have hlf := feedText_lf_atLineEnd (s := s) (payload := addr :: data) buf c reqs gs hready (Nat.le_add_left 1 _)
    (hroom.trans (maxLen_le hlegal))
  obtain ⟨hkind, hlen, -⟩ := hready
  refine ⟨delivered (addr :: data) buf c reqs gs s, ?_, hbytes, hlength, ?_⟩
  · rw [← hlf, ← hline]
    show feedText (Encode.line .i2ct (addr :: data) (lineSum s.cfg (addr :: data))) s = _
    simp only [Encode.line, List.append_assoc]
  · rw [delivered, hlength, ← hkind, ← hlen]
    rfl

end Sys2Proof.Machine
end

section
/-! SUPPORT. What a received byte can do, said once (R160 to R208): a byte other than the line feed makes moves of four
kinds, the line feed makes such moves or opens a window or sends the negative acknowledgement; every step keeps both
storages canonical. -/

namespace Sys2Proof.Machine

/-! ### The moves of a received byte -/

/-- What a received byte other than the line feed can do (R161 to R181): write the registers of the parser and the frame,
append to `inbound`, trim `inbound`, record a reason, and these in a row. -/
inductive Parsed : State → State → Prop
  | registers (s : State) (kind : CommandKind) (out : OutboundState) (active : Bool) (acc : Half) (c : Scratch)
      (len : Fin 7) (crc : Bool) (digits : Fin 5) (rx count : Half) (asked : Byte) :
      Parsed s { s with
        commandKind := kind
        outboundState := out
        inboundActive := active
        crcAcc := acc
        scratch := c
        scratchLen := len
        inCrc := crc
        crcDigits := digits
        crcRx := rx
        frameBytes := count
        svcLen := asked }
  | write (v : Byte) (s : State) : Parsed s (bufWrite .inbound v s).2
  | clear (s : State) : Parsed s (bufClear .inbound s)
  | diagnose (r : Reason) (s : State) : Parsed s (s.diagnose r)
  | trans {s t u : State} : Parsed s t → Parsed t u → Parsed s u

section
variable {s t u : State} {b v : Byte}

theorem Parsed.refl (s : State) : Parsed s s := .registers s ..

theorem parsed_discard (r : Reason) (s : State) : Parsed s (discard r s) := by
  have hmarked :
      Parsed s { s.diagnose r with commandKind := .discard, scratchLen := 0, inCrc := false, crcDigits := 0 } :=
    .trans (.diagnose r s) (.registers ..)
  unfold discard
  dsimp only
  split
  · exact (hmarked.trans (.clear _)).trans (.registers ..)
  · exact hmarked.trans (.registers ..)

theorem parsed_resetInbound (s : State) : Parsed s (resetInbound s) := by
  unfold resetInbound
  split
  · exact .clear s
  · exact .refl s

theorem parsed_appendInbound (v : Byte) (s : State) : Parsed s (appendInbound v s) := by
  unfold appendInbound
  split
  · exact parsed_discard _ s
  · have hwrite := Parsed.write v s
    generalize bufWrite .inbound v s = written at hwrite ⊢
    obtain ⟨ok, w⟩ := written
    cases ok
    · exact hwrite.trans (parsed_discard _ w)
    · exact hwrite

theorem parsed_acceptAddress (v : Byte) (s : State) : Parsed s (acceptAddress v s) :=
  ((parsed_resetInbound s).trans (.registers ..)).trans (parsed_appendInbound v _)

theorem parsed_countPayload (v : Byte) (s : State) : Parsed s (countPayload v s) := .registers ..

theorem parsed_transmitByte (v : Byte) (s : State) : Parsed s (transmitByte v s) := by
  unfold transmitByte
  split
  · split
    · exact parsed_discard _ s
    · split
      · exact parsed_discard _ s
      · exact parsed_acceptAddress v s
  · exact parsed_appendInbound v s

theorem parsed_requestByte (v : Byte) (s : State) : Parsed s (requestByte v s) := by
  unfold requestByte
  split
  · split
    · exact parsed_discard _ s
    · split
      · exact .registers ..
      · split
        · exact parsed_discard _ s
        · exact parsed_acceptAddress v s
  · split
    · exact .trans (.registers ..) (parsed_appendInbound v _)
    · exact parsed_discard _ s

theorem parsed_nackedRequestByte (v : Byte) (s : State) : Parsed s (nackedRequestByte v s) := by
  unfold nackedRequestByte
  split
  · exact .registers ..
  · exact parsed_discard _ s

theorem parsed_responseByte (v : Byte) (s : State) : Parsed s (responseByte v s) := by
  unfold responseByte
  split
  · split
    · exact .registers ..
    · exact parsed_discard _ s
  · split
    · exact parsed_appendInbound v s
    · exact parsed_discard _ s

theorem parsed_payloadByte (v : Byte) (s : State) : Parsed s (payloadByte v s) := by
  have hcount := parsed_countPayload v s
  unfold payloadByte
  split
  · exact hcount.trans (parsed_transmitByte v _)
  · exact hcount.trans (parsed_requestByte v _)
  · exact hcount.trans (parsed_nackedRequestByte v _)
  · exact hcount.trans (parsed_responseByte v _)
  · exact hcount
  · exact hcount

theorem parsed_hexChar {d : BitVec 4} (h : hexChar b d s = .next t) : Parsed s t := by
  unfold hexChar at h
  split at h
  · cases h; exact .registers ..
  · split at h
    · cases h; exact .trans (.registers ..) (parsed_payloadByte _ _)
    · cases h

theorem parsed_separator (s : State) : Parsed s (separator s) := by
  unfold separator
  split
  · exact parsed_discard _ s
  · exact .refl s

theorem parsed_hashMark (s : State) : Parsed s (hashMark s) := by
  unfold hashMark
  split
  · split
    · exact .registers ..
    · exact parsed_discard _ s
  · exact parsed_discard _ s

theorem parsed_crcChar (b : Byte) (s : State) : Parsed s (crcChar b s) := by
  unfold crcChar
  split
  · split
    · exact .registers ..
    · exact parsed_discard _ s
  · exact parsed_discard _ s

theorem parsed_payloadChar (h : payloadChar b s = .next t) : Parsed s t := by
  unfold payloadChar at h
  split at h
  · cases h; exact parsed_crcChar b s
  · split at h
    · exact parsed_hexChar h
    · split at h
      · cases h; exact parsed_separator s
      · split at h
        · cases h; exact parsed_hashMark s
        · cases h; exact parsed_discard _ s

theorem parsed_headerComplete (s : State) : Parsed s (headerComplete s) := by
  unfold headerComplete
  split
  · exact .registers ..
  · exact parsed_discard _ s

theorem parsed_headerChar (h : headerChar b s = .next t) : Parsed s t := by
  unfold headerChar at h
  split at h
  · cases h; exact parsed_discard _ s
  · split at h
    · dsimp only at h
      split at h
      · cases h; exact .trans (.registers ..) (parsed_headerComplete _)
      · cases h; exact .registers ..
    · cases h

/-- A byte other than the line feed makes moves of the parser only (R161 to R181). -/
theorem parsed_feedReady (hb : b ≠ charLF) (h : feedReady b s = .next t) : Parsed s t := by
  rw [feedReady, if_neg hb] at h
  split at h
  · cases h; exact .refl s
  · split at h
    · cases h; exact .refl s
    · exact parsed_headerChar h
    all_goals exact parsed_payloadChar h

theorem parsed_rejectLine (r : Reason) (s : State) : Parsed s (rejectLine r s) :=
  (parsed_discard r s).trans (.registers ..)

/-- The line feed makes moves of the parser only, or opens a callback window, or sends the negative acknowledgement
(R200 to R208). -/
theorem endBranch_cases (s : State) :
    Parsed s (endBranch s) ∨ (∃ kind e, endBranch s = enterCallback kind e s) ∨ endBranch s = refuseRequest s := by
  unfold endBranch
  split
  · unfold endOfHeader
    split
    · exact .inl (parsed_rejectLine _ s)
    · exact .inl (.refl s)
  · exact .inl (.registers ..)
  · split
    · exact .inr (.inl ⟨_, _, rfl⟩)
    · exact .inl (parsed_rejectLine _ s)
  · split
    · exact .inr (.inl ⟨_, _, rfl⟩)
    · exact .inl (parsed_rejectLine _ s)
  · split
    · exact .inr (.inr rfl)
    · exact .inl (parsed_rejectLine _ s)
  · split
    · exact .inl (.registers ..)
    · exact .inl (parsed_rejectLine _ s)

/-! ### The storages (R60 to R62) -/

/-- Both storages are in canonical form. -/
abbrev StorageWf (s : State) : Prop := s.inbound.storage.wf ∧ s.outbound.storage.wf

theorem pushed_wf {buf : Buffer} (cfg : Config) (v : Byte) (h : buf.storage.wf) : (buf.pushed cfg v).storage.wf :=
  Buffer.append_wf (buf := { buf with capacity := appendedCap cfg buf }) v h

theorem resetBuffer_wf {buf : Buffer} (cfg : Config) (h : buf.storage.wf) : (resetBuffer cfg buf).storage.wf := by
  unfold resetBuffer
  split
  · exact h
  · exact Buffer.cleared_wf _

/-- The moves of a received byte keep the storages canonical. -/
theorem Parsed.storageWf (h : Parsed s t) (hs : StorageWf s) : StorageWf t := by
  induction h with
  | registers => exact hs
  | write v s =>
    rcases hw : bufWrite .inbound v s with ⟨ok, u⟩
    cases ok
    · obtain ⟨reqs, gs, n, rfl⟩ := bufWrite_false hw
      exact ⟨Buffer.cleared_wf 0, hs.2⟩
    · obtain ⟨reqs, gs, n, rfl⟩ := bufWrite_true hw
      exact ⟨pushed_wf _ v hs.1, hs.2⟩
  | clear s =>
    rw [bufClear_inbound_eq]
    exact ⟨Buffer.cleared_wf _, hs.2⟩
  | diagnose r s =>
    unfold State.diagnose
    split
    · exact hs
    · exact hs
  | trans _ _ ih ih' => exact ih' (ih hs)

theorem endBranch_storageWf (h : StorageWf s) : StorageWf (endBranch s) := by
  rcases endBranch_cases s with hmoves | ⟨kind, e, hwindow⟩ | hnack
  · exact hmoves.storageWf h
  · rw [hwindow]; exact h
  · rw [hnack]; exact h

theorem feedReady_storageWf (h : StorageWf s) (hrun : feedReady b s = .next t) : StorageWf t := by
  by_cases hb : b = charLF
  · rw [feedReady, if_pos hb] at hrun
    cases hrun
    exact endBranch_storageWf h
  · exact (parsed_feedReady hb hrun).storageWf h

theorem feedText_storageWf {bs : List Byte} (h : StorageWf s) (hrun : feedText bs s = .next t) : StorageWf t := by
  induction bs generalizing s with
  | nil => cases hrun; exact h
  | cons b bs ih =>
    rcases feedText_cons_next hrun with ⟨-, u, hu, hrest⟩ | rfl
    · exact ih (feedReady_storageWf h hu) hrest
    · exact h

theorem exec_storageWf {i : Instr} (h : StorageWf s) (hrun : exec i s = .next t) : StorageWf t := by
  by_cases hreceive : i.isReceive = true
  · obtain ⟨text, hfeed⟩ := exec_of_isReceive hreceive
    exact feedText_storageWf h ((hfeed s).symm.trans hrun)
  obtain ⟨hin, hout⟩ := id h
  have hcleared := Buffer.cleared_wf
  cases i with
  | cmdNop a b => cases hrun; exact h
  | cmdReserved op a b => cases hrun; exact h
  | cmdAvail a b => cases hrun; exact h
  | cmdSetto a b => cases hrun; exact h
  | cmdPeek a b => cases hrun; split <;> exact h
  | cmdRdreg a b => cases hrun; split <;> exact h
  | cmdBegin a b =>
    cases hrun
    split
    · exact h
    · split <;> exact h
  | cmdBeginm a b =>
    cases hrun
    split
    · exact h
    · split <;> exact h
  | cmdEnd a b =>
    rw [endAndReset.1] at hrun
    cases hrun
    exact ⟨hcleared 0, hcleared 0⟩
  | cmdBegintx a b =>
    cases hrun
    split
    · exact h
    · split <;> exact h
  | cmdWrite a b =>
    rcases cmdWrite_next hrun with ⟨st, rfl⟩ | ⟨-, -, buf, rfl | rfl, rs, reqs, gs, n, rfl⟩
    · exact h
    · exact ⟨hin, pushed_wf _ a hout⟩
    · exact ⟨hin, hcleared 0⟩
  | cmdEndtx a b =>
    rcases cmdEndtx_next hrun with ⟨st, rfl⟩ | ⟨-, items, rs, reqs, rfl⟩
    · exact h
    · exact ⟨hin, hcleared _⟩
  | cmdReqfrom a b =>
    rcases cmdReqfrom_next hrun with ⟨st, rfl⟩ | ⟨-, ⟨items, rs, reqs, gs, n, rfl⟩ | ⟨rs, reqs, gs, n, rfl⟩⟩
    · exact h
    · exact ⟨pushed_wf _ a (resetBuffer_wf _ hin), hout⟩
    · exact ⟨hcleared 0, hout⟩
  | cmdRead a b =>
    rcases cmdRead_next hrun with ⟨v, rfl⟩ | ⟨-, v, rfl⟩
    · exact h
    · exact h
  | cmdCbdone a b =>
    rcases cmdCbdone_next hrun with rfl | ⟨-, rs, reqs, rfl⟩ | ⟨-, items, rs, reqs, gs, n, rfl⟩
    · exact h
    · exact ⟨hcleared _, hout⟩
    · exact ⟨hcleared _, hcleared _⟩
  | tick => cases hrun; split <;> exact h
  | reqComplete =>
    rcases reqComplete_next hrun with rfl | ⟨-, ⟨-, -, rfl⟩ | ⟨reqs, rfl⟩⟩
    · exact h
    · exact h
    · rw [abortResponseLine_eq]
      exact ⟨hcleared _, hout⟩
  | _ => exact absurd rfl hreceive

end

/-- Settles O42: a turn that runs an operation, one that runs nothing, and the reset input. -/
theorem storageCanonical : Obligations.StorageCanonical := by
  intro s t hin hout hrun
  obtain ⟨rx, cs, ag, ⟨i, hexec⟩ | rfl | rfl⟩ := step_next hrun
  · exact exec_storageWf (by exact ⟨hin, hout⟩) hexec
  · exact ⟨hin, hout⟩
  · exact ⟨List.Pairwise.nil, List.Pairwise.nil⟩

end Sys2Proof.Machine
end

section
/-! SUPPORT. The output sequences only grow (R45, R71, R238, R344): what the shared operations append, then every
operation in turn. -/

namespace Sys2Proof.Machine

/-! ### The line writer against the encoder (R230, R231) -/

theorem setWidth_ushiftRight (w : Half) (i : Nat) : (w >>> i).setWidth 4 = w.extractLsb' i 4 := by
  apply BitVec.eq_of_toNat_eq
  simp [BitVec.extractLsb'_toNat]

/-- The writer's suffix is the encoder's (R230, R233). -/
theorem frameSuffix_eq (cfg : Config) (payload : List Byte) :
    frameSuffix cfg payload = (Encode.suffix (lineSum cfg payload)).map .tx := by
  have hlow : (frameSum cfg payload).setWidth 4 = (frameSum cfg payload).extractLsb' 0 4 := by
    rw [← setWidth_ushiftRight, BitVec.ushiftRight_zero]
  unfold frameSuffix lineSum
  split
  · rw [Encode.suffix, hex4_eq]
    simp only [setWidth_ushiftRight _ 12, setWidth_ushiftRight _ 8, setWidth_ushiftRight _ 4, hlow, List.map_cons,
      List.map_nil]
  · rfl

/-- The writer's items are the encoder's line and the flush (R230). -/
theorem frameItems_eq (cfg : Config) (k : Keyword) (addr : Byte) (data : List Byte) :
    frameItems cfg k addr data = sentLine k (addr :: data) (lineSum cfg (addr :: data)) := by
  have hpairs (payload : List Byte) : payload.flatMap frameByte = (payload.flatMap hex2).map .tx := by
    rw [List.map_flatMap]
    exact congrArg payload.flatMap (funext frameByte_eq)
  simp only [frameItems, sentLine, Encode.line, frameSuffix_eq, hpairs, List.map_append, List.append_assoc]
  rfl

/-! ### What the shared operations append -/

/-- The parameters and the sequences a statement about output speaks of. -/
def State.outputs (s : State) : Config × List TxItem × List Event × List AllocReq × List Reason :=
  (s.cfg, s.tx, s.events, s.allocReqs, s.diag)

/-- From `s` to `t` the output sequences grew as one operation lets them grow (R71(c), R238, R344, R355). -/
structure Outputs (s t : State) : Prop where
  cfg : t.cfg = s.cfg
  tx : t.tx = s.tx ∨ ∃ k addr data, t.tx = s.tx ++ sentLine k (addr :: data) (lineSum s.cfg (addr :: data))
  events : t.events = s.events ∨ ∃ e, t.events = s.events ++ [e]
  allocReqs : ∃ rs, t.allocReqs = s.allocReqs ++ rs
  diag : ∃ ds, t.diag = s.diag ++ ds ∧ (s.cfg.diagEnable = false → ds = [])

/-- From `s` to `t` nothing was sent and no event raised either. -/
structure Silent (s t : State) : Prop extends Outputs s t where
  unsent : t.tx = s.tx
  unraised : t.events = s.events

section
variable {s t u : State} {a b v : Byte}

theorem Silent.trans_outputs (h : Silent s t) (h' : Outputs t u) : Outputs s u := by
  obtain ⟨⟨hcfg, -, -, ⟨rs, hreqs⟩, ds, hdiag, hoff⟩, htx, hev⟩ := h
  obtain ⟨hcfg', htx', hev', ⟨rs', hreqs'⟩, ds', hdiag', hoff'⟩ := h'
  rw [hcfg] at hcfg' htx' hoff'
  rw [htx] at htx'
  rw [hev] at hev'
  exact ⟨hcfg', htx', hev', ⟨rs ++ rs', by rw [hreqs', hreqs, List.append_assoc]⟩,
    ⟨ds ++ ds', by rw [hdiag', hdiag, List.append_assoc], fun h => by rw [hoff h, hoff' h]; rfl⟩⟩

theorem Outputs.trans_silent (h : Outputs s t) (h' : Silent t u) : Outputs s u := by
  obtain ⟨hcfg, htx, hev, ⟨rs, hreqs⟩, ds, hdiag, hoff⟩ := h
  obtain ⟨⟨hcfg', -, -, ⟨rs', hreqs'⟩, ds', hdiag', hoff'⟩, htx', hev'⟩ := h'
  rw [hcfg] at hcfg' hoff'
  rw [← htx'] at htx
  rw [← hev'] at hev
  exact ⟨hcfg', htx, hev, ⟨rs ++ rs', by rw [hreqs', hreqs, List.append_assoc]⟩,
    ⟨ds ++ ds', by rw [hdiag', hdiag, List.append_assoc], fun h => by rw [hoff h, hoff' h]; rfl⟩⟩

theorem Silent.trans (h : Silent s t) (h' : Silent t u) : Silent s u :=
  ⟨h.trans_outputs h'.toOutputs, h'.unsent.trans h.unsent, h'.unraised.trans h.unraised⟩

/-- An operation that leaves all of that alone. -/
theorem silent_of_outputs_eq (h : t.outputs = s.outputs) : Silent s t := by
  simp only [State.outputs, Prod.mk.injEq] at h
  obtain ⟨hcfg, htx, hev, hreqs, hdiag⟩ := h
  have hgrown : Outputs s t := ⟨hcfg, .inl htx, .inl hev, ⟨[], by rw [hreqs, List.append_nil]⟩,
    ⟨[], by rw [hdiag, List.append_nil], fun _ => rfl⟩⟩
  exact ⟨hgrown, htx, hev⟩

theorem Silent.refl (s : State) : Silent s s := silent_of_outputs_eq rfl

theorem Silent.congr (h : Silent s t) (he : u.outputs = t.outputs) : Silent s u := h.trans (silent_of_outputs_eq he)

theorem Outputs.congr (h : Outputs s t) (he : u.outputs = t.outputs) : Outputs s u :=
  h.trans_silent (silent_of_outputs_eq he)

theorem Silent.congr_left (h : Silent s t) (he : s.outputs = u.outputs) : Silent u t := (silent_of_outputs_eq he).trans h

theorem Outputs.congr_left (h : Outputs s t) (he : s.outputs = u.outputs) : Outputs u t :=
  (silent_of_outputs_eq he).trans_outputs h

theorem State.respond_outputs (s : State) (st : Status) (v : Half) : (s.respond st v).outputs = s.outputs := rfl

/-- An operation that only asks the allocator. -/
theorem silent_allocReqs (rs : List AllocReq) (s : State) : Silent s { s with allocReqs := s.allocReqs ++ rs } :=
  ⟨⟨rfl, .inl rfl, .inl rfl, ⟨rs, rfl⟩, ⟨[], by simp⟩⟩, rfl, rfl⟩

theorem silent_bufWrite (id : BufId) (v : Byte) (s : State) : Silent s (bufWrite id v s).2 := by
  obtain ⟨buf, reqs, gs, n, hw⟩ := bufWrite_frame id v s
  rw [hw]
  exact (silent_allocReqs reqs s).congr (by cases id <;> rfl)

theorem silent_bufClear (id : BufId) (s : State) : Silent s (bufClear id s) := by
  cases id
  · rw [bufClear_inbound_eq]
    exact (silent_allocReqs _ s).congr rfl
  · rw [bufClear_outbound_eq]
    exact (silent_allocReqs _ s).congr rfl

theorem silent_bufRelease (id : BufId) (s : State) : Silent s (bufRelease id s) := by
  cases id
  · rw [bufRelease_inbound_eq]
    exact (silent_allocReqs _ s).congr rfl
  · rw [bufRelease_outbound_eq]
    exact (silent_allocReqs _ s).congr rfl

theorem silent_padOutbound (n : Nat) (s : State) : Silent s (padOutbound n s) := by
  obtain ⟨buf, reqs, gs, m, hpad⟩ := padOutbound_frame n s
  rw [hpad]
  exact (silent_allocReqs reqs s).congr rfl

theorem silent_diagnose (r : Reason) (s : State) : Silent s (s.diagnose r) := by
  unfold State.diagnose
  split
  next hon =>
    exact ⟨⟨rfl, .inl rfl, .inl rfl, ⟨[], by simp⟩, ⟨[r], rfl, fun hoff => by simp [hon] at hoff⟩⟩, rfl, rfl⟩
  · exact .refl s

theorem Parsed.silent (h : Parsed s t) : Silent s t := by
  induction h with
  | registers s => exact silent_of_outputs_eq rfl
  | write v s => exact silent_bufWrite .inbound v s
  | clear s => exact silent_bufClear .inbound s
  | diagnose r s => exact silent_diagnose r s
  | trans _ _ ih ih' => exact ih.trans ih'

theorem outputs_emitFrame (k : Keyword) (addr : Byte) (data : List Byte) (s : State) :
    Outputs s (emitFrame k addr data s) := by
  rw [emitFrame_eq, frameItems_eq]
  exact ⟨rfl, .inr ⟨k, addr, data, rfl⟩, .inl rfl, ⟨[], by simp⟩, ⟨[], by simp⟩⟩

theorem outputs_raiseEvent (e : Event) (s : State) : Outputs s (s.raiseEvent e) :=
  ⟨rfl, .inl rfl, .inr ⟨e, rfl⟩, ⟨[], by simp⟩, ⟨[], by simp⟩⟩

/-! ### The receive operations -/

theorem outputs_endOfLine (s : State) : Outputs s (endOfLine s) := by
  unfold endOfLine
  rcases endBranch_cases s with hmoves | ⟨kind, e, hwindow⟩ | hnack
  · exact hmoves.silent.toOutputs.congr rfl
  · rw [hwindow]
    exact (outputs_raiseEvent e s).congr rfl
  · rw [hnack]
    exact (outputs_emitFrame .i2ca s.ownAddress.code [] s).congr rfl

/-- One byte appends at most one line and one event. -/
theorem outputs_feedReady (hrun : feedReady b s = .next t) : Outputs s t := by
  by_cases hb : b = charLF
  · rw [feedReady, if_pos hb] at hrun
    cases hrun
    exact outputs_endOfLine s
  · exact (parsed_feedReady hb hrun).silent.toOutputs

/-- Bytes before the line feed send nothing and raise no event; the last byte may be the line feed. -/
theorem outputs_feedText {bs : List Byte} {c : Byte} (hbs : charLF ∉ bs) (hrun : feedText (bs ++ [c]) s = .next t) :
    Outputs s t := by
  induction bs generalizing s with
  | nil =>
    rcases feedText_cons_next hrun with ⟨-, u, hu, hrest⟩ | rfl
    · cases hrest; exact outputs_feedReady hu
    · exact (Silent.refl s).toOutputs.congr rfl
  | cons b bs ih =>
    rcases feedText_cons_next hrun with ⟨-, u, hu, hrest⟩ | rfl
    · have hsilent := (parsed_feedReady (List.ne_of_not_mem_cons hbs).symm hu).silent
      exact hsilent.trans_outputs (ih (List.not_mem_of_not_mem_cons hbs) hrest)
    · exact (Silent.refl s).toOutputs.congr rfl

/-- The line feed of an encoded line stands only at its end (R90). -/
theorem line_eq_append_lf (k : Keyword) (payload : List Byte) (sum : Option Half) :
    ∃ cs, Encode.line k payload sum = cs ++ [charLF] ∧ charLF ∉ cs := by
  have hpair (v : Byte) : charLF ∉ hex2 v := by
    simp [hex2, (hexDigit_ne_lf _).symm]
  have hheader : charLF ∉ header k := by cases k <;> decide
  have hsuffix : charLF ∉ Encode.suffix sum := by
    cases sum with
    | none => exact List.not_mem_nil
    | some w => simp [Encode.suffix, hex4, hpair, show charLF ≠ charHash by decide]
  refine ⟨header k ++ payload.flatMap hex2 ++ Encode.suffix sum, rfl, ?_⟩
  simp [hheader, hsuffix, hpair]

/-- A receive operation feeds one byte, or a line with its line feed at the end only (R90, R160, R181). -/
theorem exec_receive_cases {i : Instr} (h : i.isReceive = true) :
    ∃ cs c, charLF ∉ cs ∧ ∀ s, exec i s = feedText (cs ++ [c]) s := by
  have byte (c : Byte) (he : encode i = .byte c) : ∃ cs c, charLF ∉ cs ∧ ∀ s, exec i s = feedText (cs ++ [c]) s :=
    ⟨[], c, List.not_mem_nil, fun s => (exec_of_encode_byte he s).trans (feedText_singleton c s).symm⟩
  have line (k : Keyword) (payload : List Byte) (sum : Option Half) (he : encode i = .line (Encode.line k payload sum)) :
      ∃ cs c, charLF ∉ cs ∧ ∀ s, exec i s = feedText (cs ++ [c]) s := by
    obtain ⟨cs, hline, hcs⟩ := line_eq_append_lf k payload sum
    exact ⟨cs, charLF, hcs, fun s => by rw [← hline]; exact exec_of_encode_line he s⟩
  cases i with
  | i2ct addr data sum => exact line _ _ _ rfl
  | i2cr addr count sum => exact line _ _ _ rfl
  | i2ca addr data sum => exact line _ _ _ rfl
  | nack addr sum => exact line _ _ _ rfl
  | feedLF => exact byte _ rfl
  | feedCR => exact byte _ rfl
  | feedPLUS => exact byte _ rfl
  | feedHASH => exact byte _ rfl
  | feedSEP b => exact byte _ rfl
  | feedHEXDIGIT b => exact byte _ rfl
  | feedOTHER b => exact byte _ rfl
  | _ => cases h

/-! ### The host commands and the engine -/

theorem outputs_cmdWrite (hrun : exec (.cmdWrite a b) s = .next t) : Outputs s t := by
  have hsame := (Silent.refl s).toOutputs
  cases hrun
  split
  · exact hsame.congr rfl
  · split
    · exact hsame.congr rfl
    · have hwrite := silent_bufWrite .outbound a s
      generalize bufWrite .outbound a s = written at hwrite ⊢
      obtain ⟨ok, w⟩ := written
      cases ok
      · exact hwrite.toOutputs.congr rfl
      · exact hwrite.toOutputs.congr rfl

theorem silent_closeTransmission (s : State) : Silent s (closeTransmission s) := by
  rw [closeTransmission, bufClear_outbound_eq]
  exact (silent_allocReqs _ s).congr rfl

theorem outputs_cmdEndtx (hrun : exec (.cmdEndtx a b) s = .next t) : Outputs s t := by
  cases hrun
  split
  · exact (Silent.refl s).toOutputs.congr rfl
  · dsimp only
    split
    · have hsent := outputs_emitFrame .i2ct s.txAddr s.outbound.bytes s
      exact (hsent.trans_silent (silent_closeTransmission _)).congr (State.respond_outputs ..)
    · exact (silent_closeTransmission s).toOutputs.congr (State.respond_outputs ..)

theorem outputs_cmdReqfrom (hrun : exec (.cmdReqfrom a b) s = .next t) : Outputs s t := by
  cases hrun
  split
  · exact (Silent.refl s).toOutputs.congr rfl
  · have hreset : Silent s (resetInbound { s with outboundState := .fillingWait }) :=
      (parsed_resetInbound { s with outboundState := .fillingWait }).silent.congr_left rfl
    have hwrite := hreset.trans (silent_bufWrite .inbound a _)
    generalize bufWrite .inbound a _ = written at hwrite ⊢
    obtain ⟨ok, w⟩ := written
    cases ok
    · exact hwrite.toOutputs.congr rfl
    · have hsent : Outputs w (emitFrame .i2cr a [b] { w with reqAddr := a, reqCount := b }) :=
        (outputs_emitFrame ..).congr_left rfl
      exact (hwrite.trans_outputs hsent).congr rfl

theorem outputs_finishRequest (s : State) : Outputs s (finishRequest s) := by
  have hclear (u : State) : Silent u (bufClear .inbound (bufClear .outbound u)) :=
    (silent_bufClear .outbound u).trans (silent_bufClear .inbound _)
  have hpad := silent_padOutbound s.svcLen.toNat s
  unfold finishRequest
  generalize padOutbound s.svcLen.toNat s = padded at hpad ⊢
  have hsent := outputs_emitFrame .i2ca padded.ownAddress.code padded.outbound.bytes padded
  exact hpad.trans_outputs (hsent.trans_silent (hclear _))

theorem outputs_cmdCbdone (hrun : exec (.cmdCbdone a b) s = .next t) : Outputs s t := by
  cases hrun
  split
  · exact (Silent.refl s).toOutputs.congr rfl
  · have hclear := silent_bufClear .inbound s
    generalize bufClear .inbound s = u at hclear ⊢
    exact hclear.toOutputs.congr rfl
  · have hfinish := outputs_finishRequest s
    generalize finishRequest s = u at hfinish ⊢
    exact hfinish.congr rfl

theorem outputs_cmdEnd (hrun : exec (.cmdEnd a b) s = .next t) : Outputs s t := by
  have hreleased := (silent_bufRelease .inbound s).trans (silent_bufRelease .outbound _)
  cases hrun
  generalize bufRelease .outbound (bufRelease .inbound s) = u at hreleased ⊢
  split
  · exact (hreleased.trans_outputs (outputs_raiseEvent (.reqDone .aborted 0) _)).congr rfl
  · exact hreleased.toOutputs.congr rfl

theorem outputs_endWait (st : WaitStatus) (v : Half) (s : State) : Outputs s (endWait st v s) :=
  (outputs_raiseEvent (.reqDone st v) s).congr rfl

theorem silent_abortResponseLine (s : State) : Silent s (abortResponseLine s) := by
  unfold abortResponseLine
  split
  · exact (silent_diagnose _ s).congr rfl
  · exact .refl s

theorem outputs_reqComplete (hrun : exec .reqComplete s = .next t) : Outputs s t := by
  cases hrun
  split
  · unfold completeRequest
    split
    · exact (outputs_endWait ..).congr_left rfl
    · exact ((silent_bufClear .inbound s).trans (silent_abortResponseLine _)).trans_outputs (outputs_endWait ..)
  · exact (Silent.refl s).toOutputs

/-! ### Every operation -/

theorem outputs_exec {i : Instr} (hrun : exec i s = .next t) : Outputs s t := by
  by_cases hreceive : i.isReceive = true
  · obtain ⟨cs, c, hcs, hfeed⟩ := exec_receive_cases hreceive
    exact outputs_feedText hcs ((hfeed s).symm.trans hrun)
  have hsame := (Silent.refl s).toOutputs
  cases i with
  | cmdNop a b => cases hrun; exact hsame.congr rfl
  | cmdReserved op a b => cases hrun; exact hsame.congr rfl
  | cmdAvail a b => cases hrun; exact hsame.congr rfl
  | cmdSetto a b => cases hrun; exact hsame.congr rfl
  | cmdPeek a b => cases hrun; split <;> exact hsame.congr rfl
  | cmdRdreg a b => cases hrun; split <;> exact hsame.congr rfl
  | cmdBegin a b =>
    cases hrun
    split
    · exact hsame.congr rfl
    · split <;> exact hsame.congr rfl
  | cmdBeginm a b =>
    cases hrun
    split
    · exact hsame.congr rfl
    · split <;> exact hsame.congr rfl
  | cmdEnd a b => exact outputs_cmdEnd hrun
  | cmdBegintx a b =>
    cases hrun
    split
    · exact hsame.congr rfl
    · split <;> exact hsame.congr rfl
  | cmdWrite a b => exact outputs_cmdWrite hrun
  | cmdEndtx a b => exact outputs_cmdEndtx hrun
  | cmdReqfrom a b => exact outputs_cmdReqfrom hrun
  | cmdRead a b =>
    rcases cmdRead_next hrun with ⟨v, rfl⟩ | ⟨-, v, rfl⟩
    · exact hsame.congr rfl
    · exact hsame.congr rfl
  | cmdCbdone a b => exact outputs_cmdCbdone hrun
  | tick => cases hrun; split <;> exact hsame.congr rfl
  | reqComplete => exact outputs_reqComplete hrun
  | _ => exact absurd rfl hreceive

end

/-- Settles O34: what every operation appends. -/
theorem outputSequences : Obligations.OutputSequences := by
  intro i s t hrun
  obtain ⟨-, htx, hev, hreqs, hdiag⟩ := outputs_exec hrun
  exact ⟨htx, hev, hreqs, hdiag⟩

end Sys2Proof.Machine
end

section
/-! SUPPORT. What a sound buffer holds, byte by byte, and READs in a row (R63, R66, R68, R133). -/

namespace Sys2Proof.Machine

/-! ### The bytes of a sound buffer -/

/-- A listed index holds a value. -/
theorem exists_memRead_of_mem {m : Memory} {i : Nat} (h : i ∈ m.map Prod.fst) : ∃ v, memRead m i = some v := by
  induction m with
  | nil => cases h
  | cons kv m ih =>
    obtain ⟨k, v⟩ := kv
    by_cases hk : k = i
    · exact ⟨v, if_pos hk⟩
    · obtain ⟨w, hw⟩ := ih ((List.mem_cons.mp h).resolve_left (Ne.symm hk))
      exact ⟨w, (if_neg hk).trans hw⟩

namespace Buffer

variable {cfg : Config} {buf : Buffer}

/-- Every index below the length can be read (R63). -/
theorem read_eq_some_getD {i : Nat} (h : buf.Sound cfg) (hi : i < buf.length) :
    buf.read i = some ((buf.read i).getD 0) := by
  obtain ⟨hkeys, -⟩ := h
  obtain ⟨v, hv⟩ := exists_memRead_of_mem (i := i) (hkeys ▸ List.mem_range.mpr hi)
  have hread : buf.read i = some v := (if_pos hi).trans hv
  rw [hread]
  rfl

/-- A sound buffer's bytes are what its indices hold, none missing (R61). -/
theorem bytes_eq_map (h : buf.Sound cfg) :
    buf.bytes = (List.range buf.length).map fun i => (buf.read i).getD 0 :=
  List.filterMap_eq_map_iff_forall_eq_some.mpr fun _ hi => read_eq_some_getD h (List.mem_range.mp hi)

theorem bytes_length (h : buf.Sound cfg) : buf.bytes.length = buf.length := by
  rw [bytes_eq_map h, List.length_map, List.length_range]

/-- The bytes from an index on are the byte there and those behind it (R68). -/
theorem bytes_drop {i : Nat} (h : buf.Sound cfg) (hi : i < buf.length) :
    ∃ v, buf.read i = some v ∧ buf.bytes.drop i = v :: buf.bytes.drop (i + 1) := by
  refine ⟨(buf.read i).getD 0, read_eq_some_getD h hi, ?_⟩
  rw [List.drop_eq_getElem_cons (by rwa [bytes_length h])]
  simp [bytes_eq_map h]

end Buffer

/-! ### READs in a row (R133, R260) -/

/-- A READ at the front of the command queue takes the byte at the cursor (R133, R260). -/
theorem step_read {s : State} {v : Byte} {ag : List Agent} {ws : List CmdWord} (ha : s.agenda = .host :: ag)
    (hc : s.cmds = 0x200000#24 :: ws) (hv : s.inbound.read s.inbound.position = some v) :
    step s = .next { s with
      agenda := ag
      cmds := ws
      inbound := { s.inbound with position := s.inbound.position + 1 }
      responses := s.responses ++ [⟨.ok, v.setWidth 16⟩] } := by
  have hdecode : decode (.command 0x200000#24) = .ok (.cmdRead 0 0) := by decide
  have hpeek : bufPeek .inbound { s with agenda := ag, cmds := ws } = some v := hv
  rw [step_of_fetch_run (fetch_host ha hc hdecode)]
  show Host.Outcome.next _ = _
  rw [hpeek]
  rfl

theorem run_succ {s t : State} (n : Nat) (h : step s = .next t) : core.run (n + 1) s = core.run n t := by
  have hstep : core.step s = .next t := h
  simp only [Host.Core.run, hstep]

/-- Settles O53, by induction on the number of READs. -/
theorem readsInOrder : Obligations.ReadsInOrder := by
  intro n
  induction n with
  | zero => intro s _ _; simp [Host.Core.run]
  | succ n ih =>
    intro s hsound hleft
    obtain ⟨v, hread, hbytes⟩ := Buffer.bytes_drop hsound (show s.inbound.position < s.inbound.length by omega)
    have hfirst := step_read (s := { s with
      agenda := List.replicate (n + 1) .host ++ s.agenda
      cmds := List.replicate (n + 1) 0x200000#24 ++ s.cmds }) rfl rfl hread
    have hrest := ih { s with
      inbound := { s.inbound with position := s.inbound.position + 1 }
      responses := s.responses ++ [⟨.ok, v.setWidth 16⟩] }
      (Buffer.position_sound hsound (by omega)) (by show _ + 1 + n ≤ s.inbound.length; omega)
    refine (run_succ n hfirst).trans (hrest.trans ?_)
    rw [hbytes, List.take_succ_cons, List.map_cons, ← setWidth_eq_ofNat v]
    simp only [List.append_assoc, List.singleton_append, Nat.add_assoc, Nat.add_comm 1 n]
    rfl

end Sys2Proof.Machine
end

section
/-! SUPPORT. From one block to another: a line fed byte by byte does what it does fed whole, and what ENDTX sends is a
transmit line (R181, R234, R257). -/

namespace Sys2Proof.Machine

/-! ### A line byte by byte (R181) -/

theorem encode_ofByte (b : Byte) : encode (Decode.ofByte b) = .byte b := by revert b; decide

/-- Only the line feed can stall the port (R357). -/
theorem Parsed.svc {s t : State} (h : Parsed s t) : t.svc = s.svc := by
  induction h with
  | registers s => rfl
  | write v s =>
    obtain ⟨buf, reqs, gs, n, hw⟩ := bufWrite_frame .inbound v s
    rw [hw]
    rfl
  | clear s => rw [bufClear_inbound_eq]
  | diagnose r s => exact State.diagnose_svc ..
  | trans _ _ ih ih' => exact ih'.trans ih

/-- A text with no line feed before its last character does the same byte by byte, at a ready port (R160, R181). -/
theorem feedBytes_eq_feedText {cs : List Byte} {s : State} (c : Byte) (hcs : charLF ∉ cs) (hsvc : s.svc = .none) :
    feedBytes (cs ++ [c]) s = feedText (cs ++ [c]) s := by
  have hexec (b : Byte) (u : State) (hu : u.svc = .none) : exec (Decode.ofByte b) u = feedReady b u :=
    (exec_of_encode_byte (encode_ofByte b) u).trans (feed_ready hu)
  induction cs generalizing s with
  | nil =>
    show execAll [Decode.ofByte c] s = feedText [c] s
    cases hc : feedReady c s with
    | next t => rw [execAll_cons ((hexec c s hsvc).trans hc), feedText_cons hsvc hc, execAll_nil, feedText_nil]
    | fault f => simp only [execAll, hexec c s hsvc, feedText, hsvc, hc, if_true]
    | refused r => simp only [execAll, hexec c s hsvc, feedText, hsvc, hc, if_true]
  | cons b cs ih =>
    show execAll (Decode.ofByte b :: (cs ++ [c]).map Decode.ofByte) s = feedText (b :: (cs ++ [c])) s
    cases hb : feedReady b s with
    | next t =>
      have hready : t.svc = .none := (parsed_feedReady (List.ne_of_not_mem_cons hcs).symm hb).svc.trans hsvc
      rw [execAll_cons ((hexec b s hsvc).trans hb), feedText_cons hsvc hb]
      exact ih (List.not_mem_of_not_mem_cons hcs) hready
    | fault f => simp only [execAll, hexec b s hsvc, feedText, hsvc, hb, if_true]
    | refused r => simp only [execAll, hexec b s hsvc, feedText, hsvc, hb, if_true]

/-! ### The round trip (R66, R234, R257) -/

/-- ENDTX with a target another block can have sends the transmission as a line (R234, R257). -/
theorem cmdEndtx_sends {s : State} (a b : Byte) (hlocked : s.outboundState = .locked) (hrange : s.txAddr.toNat ≤ 0x7F)
    (hother : s.txAddr ≠ s.ownAddress.code) :
    ∃ t, exec (.cmdEndtx a b) s = .next t ∧ t.tx = s.tx ++
      sentLine .i2ct (s.txAddr :: s.outbound.bytes) (lineSum s.cfg (s.txAddr :: s.outbound.bytes)) := by
  have hstatus : targetStatus s = .ok := by
    rw [targetStatus, if_neg (by omega), if_neg hother]
  refine ⟨_, rfl, ?_⟩
  rw [if_neg (by simp [hlocked])]
  simp only [hstatus, if_true, emitFrame_eq, frameItems_eq, closeTransmission, bufClear_outbound_eq]
  rfl

/-- The suffix depends on the integrity layer and its checksum function only (R99, R233). -/
theorem lineSum_congr {cfg cfg' : Config} (payload : List Byte) (hlayer : cfg.crcEnable = cfg'.crcEnable)
    (hfunction : cfg.crcFunction = cfg'.crcFunction) : lineSum cfg payload = lineSum cfg' payload := by
  have hupdate : crcUpdate cfg = crcUpdate cfg' := by
    funext acc b
    rw [crcUpdate, crcUpdate, hfunction]
  rw [lineSum, lineSum, frameSum, frameSum, hlayer, hupdate]

/-- Settles O32: what ENDTX sends is a transmit line, which is delivered whole and so byte by byte. -/
theorem roundTrip : Obligations.RoundTrip := by
  intro x y a b ha hb hready hlocked hrange hother hmatch hidle hwait hlayer hfunction hroom hg
  obtain ⟨-, ⟨-, hsound, -⟩, -⟩ := ha
  obtain ⟨-, -, hsvc⟩ := id hready
  have hlen := Buffer.bytes_length hsound
  rw [← hlen] at hroom hg
  obtain ⟨a', hsend, htx⟩ := cmdEndtx_sends x y hlocked hrange hother
  obtain ⟨b', hrun, hbytes, -, hfields⟩ :=
    transmitLineDelivered a.txAddr a.outbound.bytes b hb hready hmatch hidle hwait hroom hg
  obtain ⟨cs, hline, hcs⟩ := line_eq_append_lf .i2ct (a.txAddr :: a.outbound.bytes)
    (lineSum b.cfg (a.txAddr :: a.outbound.bytes))
  rw [lineSum_congr _ hlayer hfunction, sentLine, hline, ← List.append_assoc] at htx
  refine ⟨a', cs ++ [charLF], b', hsend, htx, ?_, hbytes, ?_, ?_, ?_⟩
  · rw [feedBytes_eq_feedText charLF hcs hsvc, ← hline]
    exact hrun
  · rw [hfields]
  · rw [hfields]
  · rw [hfields, hlen]

end Sys2Proof.Machine
end

section
/-! SUPPORT. The decoder against the encoder (R90 to R101, R107 to R109): which texts spell a line, what a received byte and
a command word stand for, and back. -/

namespace Sys2Proof.Machine

/-! ### Bytes and command words (R101, R107 to R109) -/

theorem isSep_iff (b : Byte) : isSep b = true ↔ b.toNat = 0x2C ∨ b.toNat = 0x20 ∨ b.toNat = 0x09 := by
  simp [isSep, BitVec.toNat_eq, or_assoc]

theorem isHex_iff (b : Byte) :
    isHex b = true ↔
      (0x30 ≤ b.toNat ∧ b.toNat ≤ 0x39) ∨ (0x41 ≤ b.toNat ∧ b.toNat ≤ 0x46) ∨ (0x61 ≤ b.toNat ∧ b.toNat ≤ 0x66) := by
  unfold isHex hexVal? inRange
  split_ifs <;> simp_all

/-- Settles O3: the chain of tests, each as a condition on the byte's number. -/
theorem byteClasses : Obligations.ByteClasses := by
  intro b
  have hlf : b = charLF ↔ b.toNat = 0x0A := BitVec.toNat_eq
  have hcr : b = charCR ↔ b.toNat = 0x0D := BitVec.toNat_eq
  have hplus : b = charPlus ↔ b.toNat = 0x2B := BitVec.toNat_eq
  have hhash : b = charHash ↔ b.toNat = 0x23 := BitVec.toNat_eq
  simp only [classOf, hlf, hcr, hplus, hhash, isSep_iff, isHex_iff]
  split_ifs <;> simp <;> omega

/-- A byte stands under its own class. -/
theorem ofByte_wellFormed (b : Byte) : (Decode.ofByte b).wellFormed = true := by
  unfold Decode.ofByte
  split <;> simp_all [Instr.wellFormed]

theorem encode_ofCommand (w : CmdWord) : encode (Decode.ofCommand w) = .command w := by
  have hword (op : Byte) (h : cmdOp w = op) : Stimulus.command (commandWord op (cmdA w) (cmdB w)) = .command w := by
    rw [← h, commandWord_fields]
  unfold Decode.ofCommand
  iterate 14 refine iteInduction (motive := fun i => encode i = .command w) (hword _) fun _ => ?_
  exact hword _ rfl

theorem ofCommand_wellFormed (w : CmdWord) : (Decode.ofCommand w).wellFormed = true := by
  unfold Decode.ofCommand
  iterate 14 refine iteInduction (motive := fun i : Instr => i.wellFormed = true) (fun _ => rfl) fun _ => ?_
  simp_all [Instr.wellFormed, commandOpcodes]

/-- An opcode outside R108's table is reserved (R109). -/
theorem ofCommand_reserved {op : Byte} (a b : Byte) (h : commandOpcodes.contains op = false) :
    Decode.ofCommand (commandWord op a b) = .cmdReserved op a b := by
  simp_all [Decode.ofCommand, commandOpcodes]

/-! ### The spellings of a line (R90 to R102) -/

/-- The characters between a header and the line end that spell these payload bytes and this suffix: pairs of digits in
either case, separators between them, then `#` and four digits (R93, R94, R99, R102). -/
inductive SpellsBody : List Byte → List Byte → Option Half → Prop
  | nil : SpellsBody [] [] none
  | sep {c cs payload sum} : isSep c = true → SpellsBody cs payload sum → SpellsBody (c :: cs) payload sum
  | pair {c d hi lo cs payload sum} : hexVal? c = some hi → hexVal? d = some lo → SpellsBody cs payload sum →
      SpellsBody (c :: d :: cs) (pairValue hi lo :: payload) sum
  | suffix {cs w} : Decode.suffix? cs = .ok w → SpellsBody (charHash :: cs) [] (some w)

/-- A suffix is four digits, the most significant first (R65, R99). -/
theorem suffix?_eq_ok_iff {cs : List Byte} {w : Half} :
    Decode.suffix? cs = .ok w ↔ ∃ c3 c2 c1 c0 d3 d2 d1 d0, cs = [c3, c2, c1, c0] ∧ hexVal? c3 = some d3 ∧
      hexVal? c2 = some d2 ∧ hexVal? c1 = some d1 ∧ hexVal? c0 = some d0 ∧
      w = shiftDigit (shiftDigit (shiftDigit (shiftDigit 0#16 d3) d2) d1) d0 := by
  constructor
  · intro h
    unfold Decode.suffix? at h
    split at h
    · split at h
      · cases h
        exact ⟨_, _, _, _, _, _, _, _, rfl, ‹_›, ‹_›, ‹_›, ‹_›, rfl⟩
      · cases h
    · cases h
  · rintro ⟨c3, c2, c1, c0, d3, d2, d1, d0, rfl, h3, h2, h1, h0, rfl⟩
    simp only [Decode.suffix?, h3, h2, h1, h0]

theorem hexVal?_hash : hexVal? charHash = none := by decide

theorem spellsBody_of_body? {cs payload : List Byte} {sum : Option Half} (h : Decode.body? cs = .ok (payload, sum)) :
    SpellsBody cs payload sum := by
  fun_induction Decode.body? cs generalizing payload sum with
  | case1 => cases h; exact .nil
  | case2 c rest hsep ih => exact .sep hsep (ih h)
  | case3 rest w hw => cases h; exact .suffix hw
  | case8 c _ _ hi d rest hhi lo hlo vs sum hrest ih => cases h; exact .pair hhi hlo (ih hrest)
  | _ => cases h

theorem body?_of_spellsBody {cs payload : List Byte} {sum : Option Half} (h : SpellsBody cs payload sum) :
    Decode.body? cs = .ok (payload, sum) := by
  induction h with
  | nil => rfl
  | sep hsep _ ih => unfold Decode.body?; rw [if_pos hsep, ih]
  | @pair c d hi lo cs payload sum hhi hlo _ ih =>
    have hsep : ¬isSep c = true := fun hc => by simp [hexVal?_of_isSep hc] at hhi
    have hhash : c ≠ charHash := fun hc => by simp [hc, hexVal?_hash] at hhi
    unfold Decode.body?
    rw [if_neg hsep, if_neg hhash]
    simp only [hhi, hlo, ih]
  | suffix hw =>
    unfold Decode.body?
    rw [if_neg (by decide), if_pos rfl, hw]

/-- The text spells the line of this keyword, payload and suffix: carriage returns anywhere before its only line feed, the
header in either case, the body (R90, R91, R100, R102). -/
def SpellsLine (text : List Byte) (k : Keyword) (payload : List Byte) (sum : Option Half) : Prop :=
  ∃ cs opening body, text = cs ++ [charLF] ∧ charLF ∉ cs ∧ cs.filter (· != charCR) = opening ++ body ∧
    matchHeader opening = some k ∧ SpellsBody body payload sum

theorem matchHeader_eq_some {cs : List Byte} {k : Keyword} (h : matchHeader cs = some k) : cs.map upper = header k := by
  unfold matchHeader at h
  split_ifs at h <;> cases h <;> assumption

theorem length_of_matchHeader {cs : List Byte} {k : Keyword} (h : matchHeader cs = some k) : cs.length = 6 := by
  rw [← List.length_map upper, matchHeader_eq_some h]
  cases k <;> rfl

theorem matchHeader_header (k : Keyword) : matchHeader (header k) = some k := by cases k <;> decide

/-- A text decodes to a line's operation exactly if it spells the line of that operation's fields (R90 to R102). -/
theorem ofLine_eq_ok_iff {text : List Byte} {i : Instr} :
    Decode.ofLine text = .ok i ↔
      ∃ k payload sum, SpellsLine text k payload sum ∧ Decode.ofFields k payload sum = .ok i := by
  constructor
  · intro h
    obtain ⟨cs, rfl, hcs⟩ := exists_eq_append_lf_of_decode_line h
    simp only [Decode.ofLine, List.getLast?_concat, List.dropLast_concat, hcs, not_false_iff, and_self, if_true] at h
    split at h
    · cases h
    next k hmatch =>
      split at h
      next payload sum hbody =>
        exact ⟨k, payload, sum, ⟨cs, _, _, rfl, hcs, (List.take_append_drop 6 _).symm, hmatch, spellsBody_of_body? hbody⟩, h⟩
      · cases h
  · rintro ⟨k, payload, sum, ⟨cs, opening, body, rfl, hcs, hsplit, hmatch, hbody⟩, hfields⟩
    have hlen := length_of_matchHeader hmatch
    simp only [Decode.ofLine, List.getLast?_concat, List.dropLast_concat, hcs, not_false_iff, and_self, if_true, hsplit,
      ← hlen, List.take_left', List.drop_left', hmatch, body?_of_spellsBody hbody, hfields]

/-! ### The block's own spelling (R103, R231) -/

theorem suffix?_hex4 (w : Half) : Decode.suffix? (hex4 w) = .ok w :=
  suffix?_eq_ok_iff.mpr ⟨_, _, _, _, _, _, _, _, hex4_eq w, hexVal?_hexDigit _, hexVal?_hexDigit _, hexVal?_hexDigit _,
    hexVal?_hexDigit _, (shiftDigit_digits w).symm⟩

theorem spellsBody_own (payload : List Byte) (sum : Option Half) :
    SpellsBody (payload.flatMap hex2 ++ Encode.suffix sum) payload sum := by
  induction payload with
  | nil =>
    cases sum with
    | none => exact .nil
    | some w => exact .suffix (suffix?_hex4 w)
  | cons v payload ih =>
    have hpair := SpellsBody.pair (hexVal?_hexDigit (v.extractLsb' 4 4)) (hexVal?_hexDigit (v.extractLsb' 0 4)) ih
    rwa [pairValue_halves] at hpair

/-- The encoder writes no carriage return (R103). -/
theorem cr_not_mem_line (k : Keyword) (payload : List Byte) (sum : Option Half) :
    charCR ∉ Encode.line k payload sum := by
  have hpair (v : Byte) : charCR ∉ hex2 v := by simp [hex2, (hexDigit_ne_cr _).symm]
  have hheader : charCR ∉ header k := by cases k <;> decide
  have hsuffix : charCR ∉ Encode.suffix sum := by
    cases sum with
    | none => exact List.not_mem_nil
    | some w => simp [Encode.suffix, hex4, hpair, show charCR ≠ charHash by decide]
  simp [Encode.line, hheader, hsuffix, hpair, show charCR ≠ charLF by decide]

/-- A line as the block sends it spells that line. -/
theorem spellsLine_line (k : Keyword) (payload : List Byte) (sum : Option Half) :
    SpellsLine (Encode.line k payload sum) k payload sum := by
  obtain ⟨cs, hline, hcs⟩ := line_eq_append_lf k payload sum
  have hcr := cr_not_mem_line k payload sum
  have hparts : cs = header k ++ (payload.flatMap hex2 ++ Encode.suffix sum) := by
    rw [← List.append_assoc]
    exact (List.append_cancel_right hline).symm
  refine ⟨cs, header k, _, hline, hcs, ?_, matchHeader_header k, spellsBody_own payload sum⟩
  rw [← hparts]
  refine List.filter_eq_self.mpr fun c hc => bne_iff_ne.mpr ?_
  rintro rfl
  exact hcr (hline ▸ List.mem_append_left _ hc)

/-! ### Decoding and encoding, in both orders -/

/-- The fields of a line give a well-formed operation, whose encoding is that line (R96 to R98). -/
theorem encode_of_ofFields {k : Keyword} {payload : List Byte} {sum : Option Half} {i : Instr}
    (h : Decode.ofFields k payload sum = .ok i) :
    encode i = .line (Encode.line k payload sum) ∧ i.wellFormed = true := by
  unfold Decode.ofFields at h
  split at h
  · cases h
  · split at h
    next hlen => cases h; exact ⟨rfl, decide_eq_true hlen⟩
    · cases h
  · cases h
  · split at h
    · cases h
    next hcount => cases h; exact ⟨rfl, bne_iff_ne.mpr hcount⟩
  · cases h
  · cases h; exact ⟨rfl, rfl⟩
  next addr data hdata =>
    split at h
    next hlen => cases h; exact ⟨rfl, by simpa [Instr.wellFormed, hlen] using hdata⟩
    · cases h

/-- Settles O2: bytes and command words by their fields, lines by theirs. -/
theorem encodeDecode : Obligations.EncodeDecode := by
  refine ⟨fun b => ⟨_, rfl, ofByte_wellFormed b, encode_ofByte b⟩,
    fun w => ⟨_, rfl, ofCommand_wellFormed w, encode_ofCommand w⟩, fun text i h => ?_⟩
  obtain ⟨k, payload, sum, -, hfields⟩ := ofLine_eq_ok_iff.mp h
  exact (encode_of_ofFields hfields).2

theorem decode_line {k : Keyword} {payload : List Byte} {sum : Option Half} {i : Instr}
    (h : Decode.ofFields k payload sum = .ok i) : decode (.line (Encode.line k payload sum)) = .ok i :=
  ofLine_eq_ok_iff.mpr ⟨k, payload, sum, spellsLine_line k payload sum, h⟩

/-- Settles O1: lines by their fields, bytes by their class, command words by their opcode. -/
theorem decodeEncode : Obligations.DecodeEncode := by
  intro i hwf
  cases i with
  | i2ct addr data sum => exact decode_line (if_pos (by simpa [Instr.wellFormed] using hwf))
  | i2cr addr count sum => exact decode_line (if_neg (by simpa [Instr.wellFormed] using hwf))
  | i2ca addr data sum =>
    cases data with
    | nil => cases hwf
    | cons v data => exact decode_line (if_pos (by simpa [Instr.wellFormed] using hwf))
  | nack addr sum => exact decode_line rfl
  | feedSEP b =>
    have hclass : classOf b = .sep := by simpa [Instr.wellFormed] using hwf
    simp only [decode, encode, Decode.ofByte, hclass]
  | feedHEXDIGIT b =>
    have hclass : classOf b = .hexDigit := by simpa [Instr.wellFormed] using hwf
    simp only [decode, encode, Decode.ofByte, hclass]
  | feedOTHER b =>
    have hclass : classOf b = .other := by simpa [Instr.wellFormed] using hwf
    simp only [decode, encode, Decode.ofByte, hclass]
  | cmdReserved op a b =>
    exact congrArg Except.ok (ofCommand_reserved a b (by simpa [Instr.wellFormed] using hwf))
  | feedLF => rfl
  | feedCR => rfl
  | feedPLUS => rfl
  | feedHASH => rfl
  | tick => rfl
  | reqComplete => rfl
  | _ => simp [decode, encode, Decode.ofCommand]

/-- Settles O4: bytes and command words by evaluation, the line as an encoding. -/
theorem decodedWords : Obligations.DecodedWords := by
  refine ⟨rfl, rfl, rfl, rfl, rfl, rfl, rfl, rfl, rfl, ?_⟩
  exact decodeEncode (.i2cr 0x21#8 0x04#8 none) rfl

/-! ### The words on the ports (R110 to R114) -/

theorem onReceive_word_toNat (n : Half) : (Event.onReceive n).word.toNat = 0x01000000 + n.toNat := by
  refine (event_word_toNat _ _ _).trans ?_
  simp [Status.code]

theorem reqDone_word_toNat (st : WaitStatus) (v : Half) :
    (Event.reqDone st v).word.toNat = 0x03000000 + st.status.code.toNat * 0x10000 + v.toNat := event_word_toNat _ _ _

/-- Settles O60: a word is its fields one above the other; the codes are the tables' entries. -/
theorem portWords : Obligations.PortWords := by
  refine ⟨fun c hc => ?response, onReceive_word_toNat, by decide, fun c hc v => ?done, by decide, rfl, rfl⟩
  case response =>
    have hcode : c.1.code.toNat = c.2 := by revert c; decide
    intro r hr
    rw [response_word_toNat, hr, hcode]
  case done =>
    have hcode : c.1.status.code.toNat = c.2 := by revert c; decide
    rw [reqDone_word_toNat, hcode]

/-! ### What the line writer sends (R103, R230 to R233) -/

/-- A character of R103's set. -/
def IsSent (c : Byte) : Prop :=
  c = charLF ∨ c = charPlus ∨ c = charHash ∨ c = charEq ∨ c = 0x49#8 ∨ c = 0x43#8 ∨ c = 0x54#8 ∨ c = 0x52#8 ∨
    c = 0x41#8 ∨ (0x30 ≤ c.toNat ∧ c.toNat ≤ 0x39) ∨ (0x61 ≤ c.toNat ∧ c.toNat ≤ 0x66)

theorem isSent_hexDigit (n : BitVec 4) : IsSent (hexDigit n) := by
  unfold IsSent
  revert n
  decide

theorem isSent_of_mem_hex2 {v c : Byte} (h : c ∈ hex2 v) : IsSent c := by
  simp only [hex2, List.mem_cons, List.not_mem_nil, or_false] at h
  rcases h with rfl | rfl
  · exact isSent_hexDigit _
  · exact isSent_hexDigit _

theorem isSent_of_mem_header {k : Keyword} {c : Byte} (h : c ∈ header k) : IsSent c := by
  unfold IsSent
  revert c
  cases k <;> decide

theorem isSent_of_mem_suffix {sum : Option Half} {c : Byte} (h : c ∈ Encode.suffix sum) : IsSent c := by
  cases sum with
  | none => cases h
  | some w =>
    rcases List.mem_cons.mp h with rfl | h
    · exact .inr (.inr (.inl rfl))
    · rcases List.mem_append.mp h with h | h
      · exact isSent_of_mem_hex2 h
      · exact isSent_of_mem_hex2 h

theorem isSent_of_mem_line {k : Keyword} {payload : List Byte} {sum : Option Half} {c : Byte}
    (h : c ∈ Encode.line k payload sum) : IsSent c := by
  simp only [Encode.line, List.mem_append, List.mem_flatMap, List.mem_singleton] at h
  rcases h with ((h | ⟨v, -, h⟩) | h) | rfl
  · exact isSent_of_mem_header h
  · exact isSent_of_mem_hex2 h
  · exact isSent_of_mem_suffix h
  · exact .inl rfl

/-- Without a suffix no `#` stands in a line (R99). -/
theorem hash_not_mem_line (k : Keyword) (payload : List Byte) : charHash ∉ Encode.line k payload none := by
  have hheader : charHash ∉ header k := by cases k <;> decide
  have hpair (v : Byte) : charHash ∉ hex2 v := by simp [hex2, (hexDigit_ne_hash _).symm]
  simp [Encode.line, Encode.suffix, hheader, hpair, show charHash ≠ charLF by decide]

theorem mem_sentLine {k : Keyword} {payload : List Byte} {sum : Option Half} {c : Byte} :
    TxItem.tx c ∈ sentLine k payload sum ↔ c ∈ Encode.line k payload sum := by
  simp [sentLine]

/-- Settles O33: the writer's items are the encoder's line, whose length and characters are known. -/
theorem emittedLine : Obligations.EmittedLine := by
  intro cfg k addr data
  rw [frameItems_eq]
  refine ⟨rfl, ?length, fun c hc => isSent_of_mem_line (mem_sentLine.mp hc), fun hlayer => ?noHash⟩
  case length =>
    obtain ⟨text, htext, -, -, hlen⟩ := Laws.PortForm.line_isLine k (addr :: data) (lineSum cfg (addr :: data))
    cases htext
    rw [sentLine, List.length_append, List.length_map, hlen, List.length_cons, Nat.add_comm data.length]
    cases hlayer : cfg.crcEnable <;> simp [lineSum, hlayer]
  case noHash =>
    rw [mem_sentLine, lineSum, hlayer]
    exact hash_not_mem_line k _

end Sys2Proof.Machine
end

section
/-! SUPPORT. What a line does, however it is spelled (R90, R94, R100, R102): its effect as a function of its keyword, payload
and suffix, and that every spelling has it, but for the scratch cells. -/

namespace Sys2Proof.Machine

/-! ### No operation of a line's end or payload reads the scratch cells (R26) -/

/-- `s` with other characters in the scratch cells. -/
def State.withScratch (c : Scratch) (s : State) : State := { s with scratch := c }

section
variable (c : Scratch) (v : Byte) (s : State)

theorem bufWrite_withScratch : bufWrite .inbound v (s.withScratch c) =
    ((bufWrite .inbound v s).1, (bufWrite .inbound v s).2.withScratch c) := by
  by_cases hfits : (s.buf .inbound).length + 1 ≤ (s.buf .inbound).capacity
  · rw [bufWrite_fits v hfits]
    exact bufWrite_fits v hfits
  · have hgrows := Nat.lt_of_not_le hfits
    cases hg : nextGrant s with
    | false =>
      rw [bufWrite_refused (id := .inbound) (s := s.withScratch c) v hgrows hg, bufWrite_refused v hgrows hg]
      simp only [drawGrant_eq, bufRelease_inbound_eq]
      rfl
    | true =>
      rw [bufWrite_grows (id := .inbound) (s := s.withScratch c) v hgrows hg, bufWrite_grows v hgrows hg]
      simp only [drawGrant_eq]
      rfl

theorem discard_withScratch (r : Reason) : discard r (s.withScratch c) = (discard r s).withScratch c := by
  rw [discard_eq, discard_eq]
  rfl

theorem appendInbound_withScratch : appendInbound v (s.withScratch c) = (appendInbound v s).withScratch c := by
  have hwrite := bufWrite_withScratch c v s
  unfold appendInbound
  rw [hwrite, discard_withScratch, apply_ite (State.withScratch c)]
  rcases bufWrite .inbound v s with ⟨ok, t⟩
  cases ok
  · simp only [discard_withScratch]
    rfl
  · rfl

theorem acceptAddress_withScratch : acceptAddress v (s.withScratch c) = (acceptAddress v s).withScratch c := by
  unfold acceptAddress
  rw [resetInbound_eq, resetInbound_eq, ← appendInbound_withScratch]
  rfl

theorem transmitByte_withScratch : transmitByte v (s.withScratch c) = (transmitByte v s).withScratch c := by
  simp only [transmitByte, discard_withScratch, acceptAddress_withScratch, appendInbound_withScratch,
    apply_ite (State.withScratch c)]
  rfl

theorem requestByte_withScratch : requestByte v (s.withScratch c) = (requestByte v s).withScratch c := by
  simp only [requestByte, discard_withScratch, acceptAddress_withScratch, ← appendInbound_withScratch,
    apply_ite (State.withScratch c)]
  rfl

theorem nackedRequestByte_withScratch :
    nackedRequestByte v (s.withScratch c) = (nackedRequestByte v s).withScratch c := by
  simp only [nackedRequestByte, discard_withScratch, apply_ite (State.withScratch c)]
  rfl

theorem responseByte_withScratch : responseByte v (s.withScratch c) = (responseByte v s).withScratch c := by
  simp only [responseByte, discard_withScratch, appendInbound_withScratch, apply_ite (State.withScratch c)]
  rfl

theorem payloadByte_withScratch : payloadByte v (s.withScratch c) = (payloadByte v s).withScratch c := by
  have hkind : (s.withScratch c).commandKind = s.commandKind := rfl
  have hcount : countPayload v (s.withScratch c) = (countPayload v s).withScratch c := rfl
  unfold payloadByte
  rw [hkind, hcount]
  cases s.commandKind with
  | none => rfl
  | discard => rfl
  | masterTransmit => exact transmitByte_withScratch c v _
  | masterRequest => exact requestByte_withScratch c v _
  | slaveResponse => exact responseByte_withScratch c v _
  | sendDiscarded => exact nackedRequestByte_withScratch c v _

theorem rejectLine_withScratch (r : Reason) : rejectLine r (s.withScratch c) = (rejectLine r s).withScratch c :=
  congrArg (fun t : State => { t with commandKind := .none }) (discard_withScratch c s r)

theorem endOfHeader_withScratch : endOfHeader (s.withScratch c) = (endOfHeader s).withScratch c := by
  rw [endOfHeader, endOfHeader, apply_ite (State.withScratch c)]
  exact congrArg (if s.scratchLen ≠ 0 then · else s.withScratch c) (rejectLine_withScratch c s .truncatedKeyword)

theorem endBranch_withScratch : endBranch (s.withScratch c) = (endBranch s).withScratch c := by
  have hkind : (s.withScratch c).commandKind = s.commandKind := rfl
  have hframe : frameCheck (s.withScratch c) = frameCheck s := rfl
  have hrequest : requestCheck (s.withScratch c) = requestCheck s := rfl
  unfold endBranch
  rw [hkind, hframe, hrequest]
  cases s.commandKind with
  | none => exact endOfHeader_withScratch c s
  | discard => rfl
  | masterTransmit =>
    cases frameCheck s with
    | none => rfl
    | some r => exact rejectLine_withScratch c s r
  | masterRequest =>
    cases frameCheck s <|> requestCheck s with
    | none => rfl
    | some r => exact rejectLine_withScratch c s r
  | slaveResponse =>
    cases frameCheck s with
    | none => rfl
    | some r => exact rejectLine_withScratch c s r
  | sendDiscarded =>
    cases frameCheck s <|> requestCheck s with
    | none => rfl
    | some r => exact rejectLine_withScratch c s r

theorem endOfLine_withScratch : endOfLine (s.withScratch c) = (endOfLine s).withScratch c :=
  congrArg (fun t : State => { t with inCrc := false, crcDigits := 0 }) (endBranch_withScratch c s)

end

/-! ### Where the body of a line stands -/

/-- The next pair of a payload, or its suffix, can begin. -/
abbrev AwaitsPair (s : State) : Prop := BetweenPairs s ∧ s.crcDigits = 0

/-- The rest of the line is skipped (R164). -/
abbrev SkipsLine (s : State) : Prop := s.svc = .none ∧ s.commandKind = .discard

/-- In the body of a line, either between two pairs or in a line that was discarded. -/
abbrev InBody (s : State) : Prop := AwaitsPair s ∨ SkipsLine s

section
variable {s : State} (v : Byte)

theorem svc_of_inBody (h : InBody s) : s.svc = .none := by
  rcases h with ⟨⟨hsvc, -⟩, -⟩ | ⟨hsvc, -⟩
  · exact hsvc
  · exact hsvc

theorem inBody_discard (r : Reason) (h : s.svc = .none) : InBody (discard r s) := by
  rw [discard_eq]
  exact .inr ⟨h, rfl⟩

theorem inBody_appendInbound (h : AwaitsPair s) : InBody (appendInbound v s) := by
  obtain ⟨⟨hsvc, -⟩, -⟩ := id h
  unfold appendInbound
  split
  · exact inBody_discard _ hsvc
  · rcases hw : bufWrite .inbound v s with ⟨ok, u⟩
    cases ok
    · obtain ⟨reqs, gs, n, rfl⟩ := bufWrite_false hw
      exact inBody_discard _ hsvc
    · obtain ⟨reqs, gs, n, rfl⟩ := bufWrite_true hw
      exact .inl h

theorem inBody_acceptAddress (h : AwaitsPair s) : InBody (acceptAddress v s) := by
  rw [acceptAddress, resetInbound_eq]
  exact inBody_appendInbound v h

theorem inBody_transmitByte (h : AwaitsPair s) : InBody (transmitByte v s) := by
  obtain ⟨⟨hsvc, -⟩, -⟩ := id h
  unfold transmitByte
  split
  · split
    · exact inBody_discard _ hsvc
    · split
      · exact inBody_discard _ hsvc
      · exact inBody_acceptAddress v h
  · exact inBody_appendInbound v h

theorem inBody_requestByte (h : AwaitsPair s) : InBody (requestByte v s) := by
  obtain ⟨⟨hsvc, -, hcrc, hlen⟩, hdigits⟩ := id h
  unfold requestByte
  split
  · split
    · exact inBody_discard _ hsvc
    · split
      · exact .inl ⟨⟨hsvc, rfl, hcrc, hlen⟩, hdigits⟩
      · split
        · exact inBody_discard _ hsvc
        · exact inBody_acceptAddress v h
  · split
    · exact inBody_appendInbound v h
    · exact inBody_discard _ hsvc

theorem inBody_nackedRequestByte (h : AwaitsPair s) : InBody (nackedRequestByte v s) := by
  obtain ⟨⟨hsvc, -⟩, -⟩ := id h
  unfold nackedRequestByte
  split
  · exact .inl h
  · exact inBody_discard _ hsvc

theorem inBody_responseByte (h : AwaitsPair s) : InBody (responseByte v s) := by
  obtain ⟨⟨hsvc, -⟩, -⟩ := id h
  unfold responseByte
  split
  · split
    · exact .inl h
    · exact inBody_discard _ hsvc
  · split
    · exact inBody_appendInbound v h
    · exact inBody_discard _ hsvc

theorem inBody_payloadByte (h : AwaitsPair s) : InBody (payloadByte v s) := by
  have hcount : AwaitsPair (countPayload v s) := h
  unfold payloadByte
  split
  · exact inBody_transmitByte v hcount
  · exact inBody_requestByte v hcount
  · exact inBody_nackedRequestByte v hcount
  · exact inBody_responseByte v hcount
  · exact .inl hcount
  · exact .inl hcount

end

/-! ### The effect of a line -/

/-- A payload byte of the line, which a skipped line passes over (R164, R170). -/
def takeByte (s : State) (v : Byte) : State := if s.commandKind = .discard then s else payloadByte v s

/-- The suffix of the line, which only the integrity layer takes (R164, R178, R179). -/
def takeSum (sum : Option Half) (s : State) : State :=
  match sum with
  | none => s
  | some w =>
    if s.commandKind = .discard then s
    else if s.cfg.crcEnable then { s with inCrc := true, crcRx := w, crcDigits := 4 }
    else discard .badChar s

/-- What the line of this keyword, payload and suffix does at the start of a line (R166, R170, R178, R200). -/
def lineEffect (k : Keyword) (payload : List Byte) (sum : Option Half) (s : State) : State :=
  endOfLine (takeSum sum (payload.foldl takeByte (startFrame k s)))

theorem not_discard_of_isPayload {k : CommandKind} (h : k.isPayload = true) : k ≠ .discard := by
  rintro rfl
  cases h

theorem takeByte_of_skips {s : State} (v : Byte) (h : SkipsLine s) : takeByte s v = s := if_pos h.2

theorem takeByte_of_awaits {s : State} (v : Byte) (h : AwaitsPair s) : takeByte s v = payloadByte v s := by
  obtain ⟨⟨-, hkind, -⟩, -⟩ := h
  exact if_neg (not_discard_of_isPayload hkind)

theorem takeByte_inBody {s : State} (v : Byte) (h : InBody s) : InBody (takeByte s v) := by
  rcases h with h | h
  · rw [takeByte_of_awaits v h]
    exact inBody_payloadByte v h
  · rw [takeByte_of_skips v h]
    exact .inr h

theorem foldl_takeByte_inBody {s : State} (payload : List Byte) (h : InBody s) : InBody (payload.foldl takeByte s) := by
  induction payload generalizing s with
  | nil => exact h
  | cons v payload ih => exact ih (takeByte_inBody v h)

theorem takeSum_svc {s : State} (sum : Option Half) (h : InBody s) : (takeSum sum s).svc = .none := by
  have hsvc := svc_of_inBody h
  unfold takeSum
  split
  · exact hsvc
  · split
    · exact hsvc
    · split
      · exact hsvc
      · exact svc_of_inBody (inBody_discard _ hsvc)

theorem takeByte_withScratch (c : Scratch) (s : State) (v : Byte) :
    takeByte (s.withScratch c) v = (takeByte s v).withScratch c := by
  rw [takeByte, takeByte, apply_ite (State.withScratch c), payloadByte_withScratch]
  rfl

theorem foldl_takeByte_withScratch (c : Scratch) (payload : List Byte) (s : State) :
    payload.foldl takeByte (s.withScratch c) = (payload.foldl takeByte s).withScratch c := by
  induction payload generalizing s with
  | nil => rfl
  | cons v payload ih => rw [List.foldl_cons, takeByte_withScratch, ih, List.foldl_cons]

theorem takeSum_withScratch (c : Scratch) (sum : Option Half) (s : State) :
    takeSum sum (s.withScratch c) = (takeSum sum s).withScratch c := by
  cases sum with
  | none => rfl
  | some w =>
    simp only [takeSum, discard_withScratch, apply_ite (State.withScratch c)]
    rfl

/-! ### The body of a line, however it is spelled (R93, R94, R99, R102) -/

theorem ne_lineByte_of_hexVal? {b : Byte} {n : BitVec 4} (h : hexVal? b = some n) : b ≠ charLF ∧ b ≠ charCR := by
  constructor
  · rintro rfl; cases h
  · rintro rfl; cases h

theorem ne_lineByte_of_isSep {b : Byte} (h : isSep b = true) : b ≠ charLF ∧ b ≠ charCR := by
  constructor
  · rintro rfl; cases h
  · rintro rfl; cases h

section
variable {s : State} {b : Byte}

theorem feedReady_cr (s : State) : feedReady charCR s = .next s := rfl

theorem feedReady_skips (h : SkipsLine s) (hb : b ≠ charLF) : feedReady b s = .next s := by
  rw [feedReady, if_neg hb, h.2]
  split <;> rfl

theorem feedReady_sep (h : InBody s) (hb : isSep b = true) : feedReady b s = .next s := by
  obtain ⟨hlf, hcr⟩ := ne_lineByte_of_isSep hb
  rcases h with ⟨⟨-, hkind, hcrc, hlen⟩, -⟩ | h
  · rw [feedReady_payload hkind hlf hcr, payloadChar, hcrc, hexVal?_of_isSep hb]
    refine (if_pos hb).trans ?_
    rw [separator, if_neg (not_not.mpr hlen)]
  · exact feedReady_skips h hlf

theorem feedReady_hex {n : BitVec 4} (hb : hexVal? b = some n) (hkind : s.commandKind.isPayload = true)
    (hcrc : s.inCrc = false) : feedReady b s = hexChar b n s := by
  obtain ⟨hlf, hcr⟩ := ne_lineByte_of_hexVal? hb
  rw [feedReady_payload hkind hlf hcr, payloadChar, hcrc, hb]
  rfl

/-- Two digits, in either case, are one payload byte (R102, R169). -/
theorem feedText_pair {d : Byte} {hi lo : BitVec 4} (rest : List Byte) (h : InBody s) (hb : hexVal? b = some hi)
    (hd : hexVal? d = some lo) :
    ∃ c, feedText (b :: d :: rest) s = feedText rest ((takeByte s (pairValue hi lo)).withScratch c) := by
  rcases h with h | h
  · obtain ⟨⟨hsvc, hkind, hcrc, hlen⟩, -⟩ := id h
    have hfirst := (feedReady_hex hb hkind hcrc).trans (hexChar_first hlen)
    obtain ⟨c, hc, hfirst⟩ : ∃ c : Scratch, c.c0 = b ∧
        feedReady b s = .next { s with scratch := c, scratchLen := 1 } := ⟨_, rfl, hfirst⟩
    have hsecond : feedReady d { s with scratch := c, scratchLen := 1 } =
        .next (payloadByte (pairValue hi lo) { s with scratch := c, scratchLen := 0 }) := by
      rw [feedReady_hex hd (by exact hkind) (by exact hcrc), hexChar_second (by simp) (by rw [hc, hb])]
    refine ⟨c, ?_⟩
    rw [feedText_cons hsvc hfirst, feedText_cons (by exact hsvc) hsecond, takeByte_of_awaits _ h,
      ← payloadByte_withScratch, State.withScratch, hlen]
  · refine ⟨s.scratch, ?_⟩
    rw [feedText_cons h.1 (feedReady_skips h (ne_lineByte_of_hexVal? hb).1),
      feedText_cons h.1 (feedReady_skips h (ne_lineByte_of_hexVal? hd).1), takeByte_of_skips _ h]
    rfl

/-- Four digits shifted in leave nothing of what was there (R13(3), R179). -/
theorem shiftDigit_four (v : Half) (d3 d2 d1 d0 : BitVec 4) :
    shiftDigit (shiftDigit (shiftDigit (shiftDigit v d3) d2) d1) d0 =
      shiftDigit (shiftDigit (shiftDigit (shiftDigit 0#16 d3) d2) d1) d0 := by
  apply BitVec.eq_of_toNat_eq
  simp only [shiftDigit_toNat, BitVec.toNat_ofNat]
  omega

theorem feedReady_crc_hex {n : BitVec 4} (hb : hexVal? b = some n) (hkind : s.commandKind.isPayload = true)
    (hcrc : s.inCrc = true) (hroom : s.crcDigits.val < 4) :
    feedReady b s = .next { s with crcRx := shiftDigit s.crcRx n, crcDigits := succDigits s.crcDigits } := by
  obtain ⟨hlf, hcr⟩ := ne_lineByte_of_hexVal? hb
  rw [feedReady_payload hkind hlf hcr, payloadChar, if_pos hcrc, crcChar, hb]
  exact congrArg _ (if_pos hroom)

end

/-- The four digits of a suffix, in either case, leave its value in `crcRx` (R65, R179). -/
theorem feedText_crc_digits {s : State} {cs : List Byte} {w : Half} (rest : List Byte) (hw : Decode.suffix? cs = .ok w)
    (hsvc : s.svc = .none) (hkind : s.commandKind.isPayload = true) (hcrc : s.inCrc = true) (hdigits : s.crcDigits = 0) :
    feedText (cs ++ rest) s = feedText rest { s with crcRx := w, crcDigits := 4 } := by
  obtain ⟨c3, c2, c1, c0, d3, d2, d1, d0, rfl, h3, h2, h1, h0, rfl⟩ := suffix?_eq_ok_iff.mp hw
  have hdigit {b : Byte} {d : BitVec 4} (hb : hexVal? b = some d) (v : Half) (n : Fin 5) (more : List Byte)
      (hn : n.val < 4) : feedText (b :: more) { s with crcRx := v, crcDigits := n } =
        feedText more { s with crcRx := shiftDigit v d, crcDigits := succDigits n } :=
    feedText_cons hsvc (feedReady_crc_hex hb (by exact hkind) (by exact hcrc) (by exact hn))
  have hs : s = { s with crcRx := s.crcRx, crcDigits := 0 } := by rw [← hdigits]
  rw [hs, ← shiftDigit_four s.crcRx]
  exact (hdigit h3 _ 0 _ (by decide)).trans <| (hdigit h2 _ 1 _ (by decide)).trans <|
    (hdigit h1 _ 2 _ (by decide)).trans (hdigit h0 _ 3 _ (by decide))

theorem feedText_skips {s : State} {cs : List Byte} (rest : List Byte) (h : SkipsLine s) (hcs : charLF ∉ cs) :
    feedText (cs ++ rest) s = feedText rest s := by
  induction cs with
  | nil => rfl
  | cons b cs ih =>
    rw [List.cons_append, feedText_cons h.1 (feedReady_skips h (List.ne_of_not_mem_cons hcs).symm)]
    exact ih (List.not_mem_of_not_mem_cons hcs)

theorem lf_not_mem_of_suffix? {cs : List Byte} {w : Half} (hw : Decode.suffix? cs = .ok w) : charLF ∉ cs := by
  obtain ⟨c3, c2, c1, c0, d3, d2, d1, d0, rfl, h3, h2, h1, h0, -⟩ := suffix?_eq_ok_iff.mp hw
  simp [(ne_lineByte_of_hexVal? h3).1.symm, (ne_lineByte_of_hexVal? h2).1.symm, (ne_lineByte_of_hexVal? h1).1.symm,
    (ne_lineByte_of_hexVal? h0).1.symm]

/-- A suffix in either case (R99, R178, R179). -/
theorem feedText_sum {s : State} {cs : List Byte} {w : Half} (rest : List Byte) (h : InBody s)
    (hw : Decode.suffix? cs = .ok w) :
    feedText (charHash :: cs ++ rest) s = feedText rest (takeSum (some w) s) := by
  have hcs := lf_not_mem_of_suffix? hw
  rcases h with ⟨⟨hsvc, hkind, hcrc, hlen⟩, hdigits⟩ | h
  · rw [takeSum, if_neg (not_discard_of_isPayload hkind)]
    cases hlayer : s.cfg.crcEnable with
    | true =>
      rw [List.cons_append, feedText_cons hsvc (feedReady_hash hkind hcrc hlen hlayer)]
      exact feedText_crc_digits rest hw hsvc hkind rfl hdigits
    | false =>
      have hrefused : feedReady charHash s = .next (discard .badChar s) := by
        rw [feedReady_payload hkind (by decide) (by decide), payloadChar, hcrc]
        show Host.Outcome.next (hashMark s) = _
        rw [hashMark, hlayer]
        rfl
      have hskips : SkipsLine (discard .badChar s) := by
        rw [discard_eq]
        exact ⟨hsvc, rfl⟩
      rw [List.cons_append, feedText_cons hsvc hrefused]
      exact feedText_skips rest hskips hcs
  · rw [takeSum, if_pos h.2]
    refine feedText_skips rest h ?_
    simp [hcs, show charLF ≠ charHash by decide]

/-- Every spelling of a body has the effect of its payload bytes and its suffix, but for the scratch cells (R94, R102). -/
theorem feedText_body {s : State} {body payload : List Byte} {sum : Option Half} (rest : List Byte)
    (hbody : SpellsBody body payload sum) (h : InBody s) :
    ∃ c, feedText (body ++ rest) s = feedText rest ((takeSum sum (payload.foldl takeByte s)).withScratch c) := by
  induction hbody generalizing s with
  | nil => exact ⟨s.scratch, rfl⟩
  | @sep b cs payload sum hsep _ ih =>
    obtain ⟨c, hrest⟩ := ih h
    exact ⟨c, (feedText_cons (svc_of_inBody h) (feedReady_sep h hsep)).trans hrest⟩
  | @pair b d hi lo cs payload sum hhi hlo _ ih =>
    obtain ⟨c, hpair⟩ := feedText_pair (cs ++ rest) h hhi hlo
    obtain ⟨c', hrest⟩ := ih (s := (takeByte s (pairValue hi lo)).withScratch c) (takeByte_inBody (pairValue hi lo) h)
    rw [foldl_takeByte_withScratch, takeSum_withScratch] at hrest
    exact ⟨c', hpair.trans hrest⟩
  | suffix hw => exact ⟨_, feedText_sum rest h hw⟩

/-! ### The whole line -/

/-- A carriage return before the line feed does nothing, wherever it stands (R90, R162). -/
theorem feedText_filter_cr {s : State} {cs : List Byte} (rest : List Byte) (hcs : charLF ∉ cs) (hsvc : s.svc = .none) :
    feedText (cs ++ rest) s = feedText (cs.filter (· != charCR) ++ rest) s := by
  induction cs generalizing s with
  | nil => rfl
  | cons b cs ih =>
    have hrest := List.not_mem_of_not_mem_cons hcs
    by_cases hb : b = charCR
    · subst hb
      exact (feedText_cons hsvc (feedReady_cr s)).trans (ih hrest hsvc)
    · rw [List.filter_cons_of_pos (by simpa using hb)]
      simp only [List.cons_append, feedText, hsvc, if_true]
      cases hrun : feedReady b s with
      | next t => exact ih hrest ((parsed_feedReady (List.ne_of_not_mem_cons hcs).symm hrun).svc.trans hsvc)
      | fault f => rfl
      | refused r => rfl

theorem upper_eq_plus {b : Byte} (h : upper b = charPlus) : b = charPlus := by
  revert b; decide

/-- A header in either case opens the frame of its keyword (R91, R166). -/
theorem feedText_opening {s : State} {opening : List Byte} {k : Keyword} (rest : List Byte) (h : ParserReady s)
    (hmatch : matchHeader opening = some k) (hopening : ∀ b ∈ opening, b ≠ charLF ∧ b ≠ charCR) :
    ∃ c, feedText (opening ++ rest) s = feedText rest ((startFrame k s).withScratch c) := by
  obtain ⟨c0, c1, c2, c3, c4, c5, rfl⟩ : ∃ c0 c1 c2 c3 c4 c5, opening = [c0, c1, c2, c3, c4, c5] := by
    have hlen := length_of_matchHeader hmatch
    match opening, hlen with
    | [c0, c1, c2, c3, c4, c5], _ => exact ⟨_, _, _, _, _, _, rfl⟩
  have hplus : c0 = charPlus := by
    have hupper := matchHeader_eq_some hmatch
    refine upper_eq_plus (List.head_eq_of_cons_eq (hupper.trans (?_ : header k = charPlus :: (header k).tail)))
    cases k <;> rfl
  refine ⟨⟨c0, c1, c2, c3, c4, c5⟩, ?_⟩
  rw [show [c0, c1, c2, c3, c4, c5] = (⟨c0, c1, c2, c3, c4, c5⟩ : Scratch).cells from rfl] at hmatch hopening ⊢
  rw [feedText_header_cells rest h hplus hopening, headerComplete, hmatch]
  rfl

/-- A line does the same in every spelling, but for the scratch cells (R90, R94, R100, R102). -/
theorem feedText_spelling {s : State} {text : List Byte} {k : Keyword} {payload : List Byte} {sum : Option Half}
    (htext : SpellsLine text k payload sum) (h : ParserReady s) :
    ∃ c, feedText text s = .next ((lineEffect k payload sum s).withScratch c) := by
  obtain ⟨cs, opening, body, rfl, hcs, hsplit, hmatch, hbody⟩ := htext
  have hopening : ∀ b ∈ opening, b ≠ charLF ∧ b ≠ charCR := by
    intro b hb
    have hmem : b ∈ cs.filter (· != charCR) := hsplit ▸ List.mem_append_left _ hb
    obtain ⟨hin, hcr⟩ := List.mem_filter.mp hmem
    exact ⟨fun hlf => hcs (hlf ▸ hin), bne_iff_ne.mp hcr⟩
  obtain ⟨-, -, hsvc⟩ := id h
  have hframe : InBody (startFrame k s) := .inl ⟨⟨hsvc, by cases k <;> rfl, rfl, rfl⟩, rfl⟩
  obtain ⟨c, hheader⟩ := feedText_opening (body ++ [charLF]) h hmatch hopening
  obtain ⟨c', hrun⟩ := feedText_body (s := (startFrame k s).withScratch c) [charLF] hbody hframe
  rw [foldl_takeByte_withScratch, takeSum_withScratch] at hrun
  refine ⟨c', ?_⟩
  rw [feedText_filter_cr _ hcs hsvc, hsplit, List.append_assoc, hheader, hrun, lineEffect, ← endOfLine_withScratch]
  exact feedText_cons (takeSum_svc sum (foldl_takeByte_inBody payload hframe)) rfl

/-- Settles O5: the text and the block's own line spell the same line. -/
theorem spellingsAgree : Obligations.SpellingsAgree := by
  intro text i s hdecode hready
  obtain ⟨k, payload, sum, htext, hfields⟩ := ofLine_eq_ok_iff.mp hdecode
  obtain ⟨c, hfeed⟩ := feedText_spelling htext hready
  obtain ⟨c', hown⟩ := feedText_spelling (spellsLine_line k payload sum) hready
  rw [← exec_of_encode_line (encode_of_ofFields hfields).1] at hown
  exact ⟨_, _, hfeed, hown, rfl⟩

end Sys2Proof.Machine
end

section
/-! SUPPORT. Whole request and response lines (R97, R98): the effect of a request line byte by byte of its payload, and a
response line fed to a ready parser, part by part. -/

namespace Sys2Proof.Machine

/-! ### A request line up to its line feed (R97, R173) -/

/-- A line in one step has its effect, but for the scratch cells (R181). -/
theorem exec_line {i : Instr} {s : State} {k : Keyword} {payload : List Byte} {sum : Option Half}
    (he : encode i = .line (Encode.line k payload sum)) (h : ParserReady s) :
    ∃ c, exec i s = .next ((lineEffect k payload sum s).withScratch c) := by
  rw [exec_of_encode_line he]
  exact feedText_spelling (spellsLine_line k payload sum) h

/-- The suffix that a sender of this configuration writes is the one the checks ask for (R99, R233, R323). -/
theorem takeSum_lineSum {s : State} {payload : List Byte} (h : AwaitsPair s)
    (hsum : s.crcAcc = sumAfter s.cfg Config.crcSeed payload) : takeSum (lineSum s.cfg payload) s = suffixed s := by
  obtain ⟨⟨-, hkind, hcrc, -⟩, hdigits⟩ := h
  have htaken := not_discard_of_isPayload hkind
  cases hlayer : s.cfg.crcEnable with
  | true =>
    have hacc : frameSum s.cfg payload = s.crcAcc := by rw [hsum, sumAfter, if_pos hlayer, frameSum]
    simp only [takeSum, lineSum, suffixed, hlayer, if_true, if_neg htaken, hacc]
  | false =>
    cases s
    simp_all [takeSum, lineSum, suffixed]

section
variable {s : State} {addr count : Byte}

theorem takeByte_of_request (v : Byte) (hkind : s.commandKind = .masterRequest) :
    takeByte s v = requestByte v (countPayload v s) := by
  rw [takeByte, if_neg (by simp [hkind]), payloadByte, hkind]

theorem takeByte_of_nacked_request (v : Byte) (hkind : s.commandKind = .sendDiscarded) :
    takeByte s v = nackedRequestByte v (countPayload v s) := by
  rw [takeByte, if_neg (by simp [hkind]), payloadByte, hkind]

/-- The first byte of a request line for this block while nothing goes on (R140, R173). -/
theorem takeByte_request_address (hkind : s.commandKind = .masterRequest) (hbytes : s.frameBytes = 0#16)
    (hmatch : addrMatch s addr = true) (hidle : s.outboundState = .idle) (hwait : s.waitActive = false)
    (hroom : 1 ≤ s.cfg.maxLen) (hg : GrantsFor 1 s) :
    ∃ reqs, takeByte s addr = { withPayload [addr] ((resetBuffer s.cfg s.inbound).pushed s.cfg addr) s.scratch reqs
      (appendGrants (resetBuffer s.cfg s.inbound) s) s with inboundActive := true } := by
  have hfirst : (countPayload addr s).frameBytes = 1#16 := (satSucc_eq_one_iff _).mpr hbytes
  have hforUs : addrMatch (countPayload addr s) addr = true := hmatch
  have hfree : ¬(countPayload addr s).waitActive = true := by simp [countPayload, hwait]
  have hempty : (resetBuffer s.cfg s.inbound).length < s.cfg.maxLen := by rwa [resetBuffer_length]
  rw [takeByte_of_request addr hkind, requestByte, if_pos hfirst, hforUs, if_neg (by simp), if_neg hfree,
    if_neg (by exact not_not.mpr hidle), countPayload_eq addr (by simp [hbytes]), acceptAddress, resetInbound_eq,
    appendInbound_granted addr (by exact hempty) (by exact hg)]
  exact ⟨_, rfl⟩

/-- The length byte of a request line (R173). -/
theorem takeByte_request_count (hkind : s.commandKind = .masterRequest) (hbytes : s.frameBytes = 1#16)
    (hroom : s.inbound.length < s.cfg.maxLen) (hg : GrantsFor 1 s) :
    ∃ reqs gs, takeByte s count =
      { withPayload [count] (s.inbound.pushed s.cfg count) s.scratch reqs gs s with svcLen := count } := by
  have hsecond : (countPayload count s).frameBytes = 2#16 := by simp [countPayload, satSucc, hbytes]
  rw [takeByte_of_request count hkind, requestByte, if_neg (by rw [hsecond]; decide), if_pos hsecond,
    countPayload_eq count (by simp [hbytes]), appendInbound_granted count (by exact hroom) (by exact hg)]
  exact ⟨_, _, rfl⟩

/-- The payload of a request line for this block while nothing goes on (R173). -/
theorem foldl_request_served (hkind : s.commandKind = .masterRequest) (hbytes : s.frameBytes = 0#16)
    (hmatch : addrMatch s addr = true) (hidle : s.outboundState = .idle) (hwait : s.waitActive = false)
    (hroom : 2 ≤ s.cfg.maxLen) (hg : GrantsFor 2 s) :
    ∃ buf reqs gs, [addr, count].foldl takeByte s =
        { withPayload [addr, count] buf s.scratch reqs gs s with inboundActive := true, svcLen := count } ∧
      buf.bytes = [addr, count] := by
  have hempty := resetBuffer_length s.cfg s.inbound
  obtain ⟨reqs, haddr⟩ := takeByte_request_address hkind hbytes hmatch hidle hwait (Nat.le_of_succ_le hroom)
    (grantsFor_mono hg (by decide))
  obtain ⟨reqs', gs, hcount⟩ := takeByte_request_count (count := count) (s := { withPayload [addr]
      ((resetBuffer s.cfg s.inbound).pushed s.cfg addr) s.scratch reqs (appendGrants (resetBuffer s.cfg s.inbound) s) s
        with inboundActive := true }) hkind (by simp [withPayload, hbytes, half]) (by simp [withPayload, hempty]; omega)
    (grantsFor_appendGrants _ hg)
  refine ⟨((resetBuffer s.cfg s.inbound).pushed s.cfg addr).pushed s.cfg count, reqs', gs, ?_, ?_⟩
  · rw [List.foldl_cons, haddr, List.foldl_cons, hcount, List.foldl_nil]
    have hpayload := withPayload_withPayload (s := s) (xs := [addr]) (ys := [count]) (by simp [hbytes])
      ((resetBuffer s.cfg s.inbound).pushed s.cfg addr)
      (((resetBuffer s.cfg s.inbound).pushed s.cfg addr).pushed s.cfg count) s.scratch s.scratch reqs reqs'
      (appendGrants (resetBuffer s.cfg s.inbound) s) gs
    exact congrArg (fun u : State => { u with inboundActive := true, svcLen := count }) hpayload
  · rw [bytes_pushed, bytes_pushed, resetBuffer_bytes]
    rfl

/-- The payload of a request line for this block during a wait (R173, R174). -/
theorem foldl_request_nacked (hkind : s.commandKind = .masterRequest) (hbytes : s.frameBytes = 0#16)
    (hmatch : addrMatch s addr = true) (hwait : s.waitActive = true) :
    [addr, count].foldl takeByte s =
      { withPayload [addr, count] s.inbound s.scratch s.allocReqs s.grants s with
        commandKind := .sendDiscarded
        svcLen := count } := by
  have hfirst : (countPayload addr s).frameBytes = 1#16 := (satSucc_eq_one_iff _).mpr hbytes
  have hforUs : addrMatch (countPayload addr s) addr = true := hmatch
  have haddr : takeByte s addr = { countPayload addr s with commandKind := .sendDiscarded } := by
    rw [takeByte_of_request addr hkind, requestByte, if_pos hfirst, hforUs, if_neg (by simp), if_pos (by exact hwait)]
  rw [countPayload_eq addr (by simp [hbytes])] at haddr
  rw [List.foldl_cons, haddr, List.foldl_cons, takeByte_of_nacked_request count rfl, List.foldl_nil, nackedRequestByte,
    if_pos (by simp [countPayload, withPayload, satSucc, half, hbytes]),
    countPayload_eq count (by simp [withPayload, half, hbytes])]
  have hpayload := withPayload_withPayload (s := s) (xs := [addr]) (ys := [count]) (by simp [hbytes]) s.inbound s.inbound
    s.scratch s.scratch s.allocReqs s.allocReqs s.grants s.grants
  exact congrArg (fun u : State => { u with commandKind := .sendDiscarded, svcLen := count }) hpayload

/-- The checks of a request line pass with its two bytes, a length and its suffix in (R203, R205). -/
theorem requestChecks_pass (hlen : s.scratchLen = 0) (hbytes : s.frameBytes = 2#16) (hcount : s.svcLen ≠ 0#8)
    (hidle : s.commandKind = .masterRequest → s.outboundState = .idle) :
    (frameCheck (suffixed s) <|> requestCheck (suffixed s)) = none := by
  have hrequest : requestCheck (suffixed s) = none := by
    rw [requestCheck, if_neg (by exact not_not.mpr hbytes), if_neg (by exact hcount),
      if_neg (by exact fun h => h.2 (hidle h.1))]
  rw [frameCheck_suffixed hlen (by rw [hbytes]; decide), hrequest]
  rfl

end

/-! ### The two outcomes of a request line (R205, R206) -/

/-- `s` after a request line was served (R205): its two bytes in `buf`, the Request window open. -/
def served (count : Byte) (buf : Buffer) (acc rx : Half) (reqs : List AllocReq) (gs : List Bool) (s : State) : State :=
  { s with
    commandKind := .none
    scratchLen := 0
    inbound := { buf with position := 1 }
    svc := .request
    svcLen := count
    events := s.events ++ [.onRequest]
    frameBytes := 2#16
    crcAcc := acc
    crcRx := rx
    inboundActive := false
    inCrc := false
    crcDigits := 0
    allocReqs := reqs
    grants := gs }

/-- `s` after a request line was refused (R206): the negative acknowledgement sent. -/
def nacked (addr count : Byte) (acc rx : Half) (s : State) : State :=
  { s with
    commandKind := .none
    scratchLen := 0
    tx := s.tx ++ sentLine .i2ca [addr] (lineSum s.cfg [addr])
    svcLen := count
    frameBytes := 2#16
    crcAcc := acc
    crcRx := rx
    inboundActive := false
    inCrc := false
    crcDigits := 0 }

theorem code_of_addrMatch {s : State} {v : Byte} (h : addrMatch s v = true) : s.ownAddress.code = v := by
  unfold addrMatch at h
  split at h
  next a ha => rw [ha]; exact beq_iff_eq.mp h
  · cases h
  · cases h

/-- A line whose payload was taken stands at its line feed with the suffix in (R200). -/
theorem lineEffect_of_payload {s t : State} {k : Keyword} {payload : List Byte}
    (ht : payload.foldl takeByte (startFrame k s) = t) (h : AwaitsPair t) (hcfg : t.cfg = s.cfg)
    (hsum : t.crcAcc = sumAfter t.cfg Config.crcSeed payload) :
    lineEffect k payload (lineSum s.cfg payload) s = endOfLine (suffixed t) := by
  rw [lineEffect, ht, ← hcfg, takeSum_lineSum h hsum]

section
variable {s : State}

theorem endOfLine_request_served (hkind : s.commandKind = .masterRequest) (hlen : s.scratchLen = 0)
    (hbytes : s.frameBytes = 2#16) (hcount : s.svcLen ≠ 0#8) (hidle : s.outboundState = .idle) :
    endOfLine (suffixed s) = { acceptRequest (suffixed s) with inCrc := false, crcDigits := 0 } := by
  have hend : endBranch (suffixed s) = acceptRequest (suffixed s) := by
    rw [endBranch, show (suffixed s).commandKind = .masterRequest from hkind]
    simp only [requestChecks_pass hlen hbytes hcount fun _ => hidle]
  rw [endOfLine, hend]

theorem endOfLine_request_nacked (hkind : s.commandKind = .sendDiscarded) (hlen : s.scratchLen = 0)
    (hbytes : s.frameBytes = 2#16) (hcount : s.svcLen ≠ 0#8) :
    endOfLine (suffixed s) = { refuseRequest (suffixed s) with inCrc := false, crcDigits := 0 } := by
  have hend : endBranch (suffixed s) = refuseRequest (suffixed s) := by
    rw [endBranch, show (suffixed s).commandKind = .sendDiscarded from hkind]
    simp only [requestChecks_pass hlen hbytes hcount fun hk => absurd (hkind.symm.trans hk) nofun]
  rw [endOfLine, hend]

variable {addr count : Byte}

theorem lineEffect_request_served (h : ParserReady s) (hmatch : addrMatch s addr = true) (hcount : count ≠ 0#8)
    (hidle : s.outboundState = .idle) (hwait : s.waitActive = false) (hroom : 2 ≤ s.cfg.maxLen) (hg : GrantsFor 2 s) :
    ∃ buf acc rx reqs gs, lineEffect .i2cr [addr, count] (lineSum s.cfg [addr, count]) s =
      served count buf acc rx reqs gs s ∧ buf.bytes = [addr, count] := by
  obtain ⟨-, -, hsvc⟩ := h
  obtain ⟨buf, reqs, gs, hpayload, hbuf⟩ := foldl_request_served (s := startFrame .i2cr s) (count := count) rfl rfl hmatch
    hidle hwait hroom hg
  refine ⟨buf, sumAfter s.cfg Config.crcSeed [addr, count],
    if s.cfg.crcEnable then sumAfter s.cfg Config.crcSeed [addr, count] else 0#16, reqs, gs, ?_, hbuf⟩
  exact (lineEffect_of_payload hpayload ⟨⟨hsvc, rfl, rfl, rfl⟩, rfl⟩ rfl rfl).trans
    (endOfLine_request_served rfl rfl rfl (by exact hcount) (by exact hidle))

theorem lineEffect_request_nacked (h : ParserReady s) (hmatch : addrMatch s addr = true) (hcount : count ≠ 0#8)
    (hwait : s.waitActive = true) :
    ∃ acc rx, lineEffect .i2cr [addr, count] (lineSum s.cfg [addr, count]) s = nacked addr count acc rx s := by
  obtain ⟨-, -, hsvc⟩ := h
  have hpayload := foldl_request_nacked (s := startFrame .i2cr s) (count := count) rfl rfl hmatch hwait
  refine ⟨sumAfter s.cfg Config.crcSeed [addr, count],
    if s.cfg.crcEnable then sumAfter s.cfg Config.crcSeed [addr, count] else 0#16, ?_⟩
  have hend := (lineEffect_of_payload hpayload ⟨⟨hsvc, rfl, rfl, rfl⟩, rfl⟩ rfl rfl).trans
    (endOfLine_request_nacked rfl rfl rfl (by exact hcount))
  rw [hend, refuseRequest, emitFrame_eq, frameItems_eq, nacked, ← code_of_addrMatch hmatch]
  rfl

end

/-- Settles O29: the effect of the line while nothing goes on, and during a wait. -/
theorem requestLineServed : Obligations.RequestLineServed := by
  intro addr count s hinv hready hmatch hcount
  obtain ⟨⟨hroom, -⟩, -⟩ := hinv
  obtain ⟨c, hrun⟩ := exec_line (i := .i2cr addr count (lineSum s.cfg [addr, count])) rfl hready
  obtain ⟨hkind, hlen, -⟩ := id hready
  refine ⟨fun hidle hwait hg => ?_, fun hwait => ?_⟩
  · obtain ⟨buf, acc, rx, reqs, gs, heffect, hbuf⟩ :=
      lineEffect_request_served hready hmatch hcount hidle hwait hroom hg
    rw [heffect] at hrun
    refine ⟨_, hrun, hbuf, rfl, ?_⟩
    rw [served, ← hkind, ← hlen]
    rfl
  · obtain ⟨acc, rx, heffect⟩ := lineEffect_request_nacked hready hmatch hcount hwait
    rw [heffect] at hrun
    refine ⟨_, hrun, ?_⟩
    rw [nacked, ← hkind, ← hlen]
    rfl

/-! ### A response line up to its line feed (R98, R175) -/

/-- The address byte of the awaited response line (R175). -/
theorem payloadByte_response_address {s : State} {addr : Byte} (hkind : s.commandKind = .slaveResponse)
    (hbytes : s.frameBytes = 0#16) (hwait : s.outboundState = .fillingWait) (hread : s.inbound.read 0 = some addr) :
    payloadByte addr s = { withPayload [addr] s.inbound s.scratch s.allocReqs s.grants s with
      outboundState := .filling
      inboundActive := true } := by
  have hfirst : (countPayload addr s).frameBytes = 1#16 := (satSucc_eq_one_iff _).mpr hbytes
  rw [payloadByte, hkind]
  show responseByte addr (countPayload addr s) = _
  rw [responseByte, if_pos hfirst, if_pos (by exact ⟨hwait, hread⟩), countPayload_eq addr (by simp [hbytes])]

/-- `s` at the line feed of the awaited response line: the frame taken, its suffix in (R166, R175, R203). -/
def atResponseEnd (payload : List Byte) (buf : Buffer) (c : Scratch) (reqs : List AllocReq) (gs : List Bool) (s : State) :
    State :=
  suffixed { withPayload payload buf c reqs gs (startFrame .i2ca s) with outboundState := .filling, inboundActive := true }

/-- The awaited response line up to its line feed: the header, the payload, the suffix (R166, R175, R179). -/
theorem feedText_response_line {s : State} (addr : Byte) (data rest : List Byte) (h : ParserReady s)
    (hwait : s.outboundState = .fillingWait) (hread : s.inbound.read 0 = some addr) (hlegal : s.cfg.Legal)
    (hframe : data.length + 1 ≤ s.cfg.maxLen) (hroom : s.inbound.length + data.length ≤ s.cfg.maxLen)
    (hg : GrantsFor data.length s) :
    ∃ buf c reqs gs,
      feedText (header .i2ca ++ ((addr :: data).flatMap hex2 ++
          (Encode.suffix (lineSum s.cfg (addr :: data)) ++ rest))) s =
        feedText rest (atResponseEnd (addr :: data) buf c reqs gs s) ∧
      buf.bytes = s.inbound.bytes ++ data ∧ buf.position = s.inbound.position := by
  obtain ⟨-, -, hsvc⟩ := id h
  have hmax := maxLen_le hlegal
  obtain ⟨c₀, hheader⟩ := feedText_header .i2ca
    ((addr :: data).flatMap hex2 ++ (Encode.suffix (lineSum s.cfg (addr :: data)) ++ rest)) h
  obtain ⟨c₁, haddr⟩ := feedText_hex2 (s := startFrame .i2ca { s with scratch := c₀ }) addr
    (data.flatMap hex2 ++ (Encode.suffix (lineSum s.cfg (addr :: data)) ++ rest)) ⟨hsvc, rfl, rfl, rfl⟩
  have hfilling : payloadByte addr { startFrame .i2ca { s with scratch := c₀ } with scratch := c₁ } =
      { withPayload [addr] s.inbound c₁ s.allocReqs s.grants (startFrame .i2ca s) with
        outboundState := .filling
        inboundActive := true } := payloadByte_response_address rfl rfl hwait hread
  obtain ⟨buf, c, reqs, gs, hdata, hcontent, -, hposition⟩ := feedText_data data
    (Encode.suffix (lineSum s.cfg (addr :: data)) ++ rest)
    (s := { withPayload [addr] s.inbound c₁ s.allocReqs s.grants (startFrame .i2ca s) with
      outboundState := .filling
      inboundActive := true })
    ⟨⟨hsvc, rfl, rfl, rfl⟩, by simp [withPayload, startFrame, half], .inr ⟨rfl, rfl, rfl⟩⟩
    (by show 1 + data.length ≤ 65535; omega) hroom hg
  have hcount := withPayload_withPayload (s := startFrame .i2ca s) (xs := [addr]) (ys := data) (by simp [startFrame])
    s.inbound buf c₁ c s.allocReqs reqs s.grants gs
  have hpayload := congrArg (fun u : State => feedText (Encode.suffix (lineSum s.cfg (addr :: data)) ++ rest)
    { u with outboundState := .filling, inboundActive := true }) hcount
  have hsuffix := feedText_suffix (s := { withPayload (addr :: data) buf c reqs gs (startFrame .i2ca s) with
    outboundState := .filling, inboundActive := true }) (addr :: data) rest ⟨hsvc, rfl, rfl, rfl⟩ rfl rfl rfl
  refine ⟨buf, c, reqs, gs, ?_, hcontent, hposition⟩
  rw [hheader, List.flatMap_cons, List.append_assoc]
  exact haddr.trans <| (congrArg (feedText _) hfilling).trans <| hdata.trans <| hpayload.trans hsuffix

/-- `s` after the awaited response line with this payload (R207). -/
def answered (payload : List Byte) (buf : Buffer) (acc rx : Half) (c : Scratch) (reqs : List AllocReq) (gs : List Bool)
    (s : State) : State :=
  { s with
    commandKind := .none
    scratchLen := 0
    inbound := buf
    outboundState := .filled
    frameBytes := half payload.length
    crcAcc := acc
    crcRx := rx
    scratch := c
    inboundActive := false
    inCrc := false
    crcDigits := 0
    allocReqs := reqs
    grants := gs }

theorem half_ne_zero {n : Nat} (hpos : 1 ≤ n) (hmax : n ≤ 65535) : half n ≠ 0#16 := fun hzero => by
  have hnat := half_toNat hmax
  rw [hzero, BitVec.toNat_ofNat] at hnat
  omega

/-- The line feed of such a line completes the response (R200, R203, R207). -/
theorem feedText_lf_atResponseEnd {s : State} {payload : List Byte} (buf : Buffer) (c : Scratch) (reqs : List AllocReq)
    (gs : List Bool) (h : ParserReady s) (hlen : 1 ≤ payload.length) (hmax : payload.length ≤ 65535) :
    ∃ acc rx, feedText [charLF] (atResponseEnd payload buf c reqs gs s) = .next (answered payload buf acc rx c reqs gs s) := by
  obtain ⟨-, -, hsvc⟩ := h
  have hcount : half (0 + payload.length) = half payload.length := by rw [Nat.zero_add]
  have hbytes : half (0 + payload.length) ≠ 0#16 := by rw [hcount]; exact half_ne_zero hlen hmax
  have hcheck : frameCheck (atResponseEnd payload buf c reqs gs s) = none := frameCheck_suffixed rfl hbytes
  have hend : endBranch (atResponseEnd payload buf c reqs gs s) = acceptResponse (atResponseEnd payload buf c reqs gs s) := by
    rw [endBranch, show (atResponseEnd payload buf c reqs gs s).commandKind = .slaveResponse from rfl]
    simp only [hcheck]
  have hready : feedReady charLF (atResponseEnd payload buf c reqs gs s) = .next (endOfLine _) := rfl
  refine ⟨sumAfter s.cfg Config.crcSeed payload,
    if s.cfg.crcEnable then sumAfter s.cfg Config.crcSeed payload else 0#16, ?_⟩
  rw [feedText_cons (s := atResponseEnd payload buf c reqs gs s) hsvc hready, endOfLine, hend, answered, ← hcount]
  rfl

/-- The one byte of a sound buffer stands at index 0 (R61). -/
theorem read_zero_of_bytes {cfg : Config} {buf : Buffer} {v : Byte} (h : buf.Sound cfg) (hbytes : buf.bytes = [v]) :
    buf.read 0 = some v ∧ buf.length = 1 := by
  have hlen : buf.length = 1 := by rw [← Buffer.bytes_length h, hbytes]; rfl
  obtain ⟨w, hread, hdrop⟩ := Buffer.bytes_drop (i := 0) h (by omega)
  rw [List.drop_zero, hbytes] at hdrop
  rw [hread, List.head_eq_of_cons_eq hdrop]
  exact ⟨rfl, hlen⟩

/-- Settles O30: the line up to its line feed, then the line feed. -/
theorem responseLineAwaited : Obligations.ResponseLineAwaited := by
  intro addr data s hinv hready hawaits hbytes hroom hg sum
  obtain ⟨hlegal, ⟨hsound, -⟩, -, -, ⟨hawait, -⟩⟩ := hinv
  obtain ⟨hread, hone⟩ := read_zero_of_bytes hsound hbytes
  obtain ⟨hwait, -⟩ := hawait (.inl (by rw [awaiting, hawaits]; rfl))
  obtain ⟨buf, c, reqs, gs, hline, hcontent, hposition⟩ :=
    feedText_response_line addr data [charLF] hready hawaits hread hlegal hroom (by omega) hg
  obtain ⟨acc, rx, hlf⟩ := feedText_lf_atResponseEnd (s := s) (payload := addr :: data) buf c reqs gs hready
    (Nat.le_add_left 1 _) (hroom.trans (maxLen_le hlegal))
  have hfeed : feedText (Encode.line .i2ca (addr :: data) sum) s =
      .next (answered (addr :: data) buf acc rx c reqs gs s) := by
    rw [← hlf, ← hline]
    simp only [Encode.line, List.append_assoc]
    rfl
  obtain ⟨hkind, hlen, -⟩ := hready
  refine ⟨answered (addr :: data) buf acc rx c reqs gs s, fun _ => hfeed, ?nack, ?_, hposition, rfl, ?enabled, ?fields⟩
  case nack => rintro rfl; exact hfeed
  case enabled => rw [reqCompleteEnabled, answered, hwait]; rfl
  case fields => rw [answered, ← hkind, ← hlen]; rfl
  · show buf.bytes = _
    rw [hcontent, hbytes]
    rfl

end Sys2Proof.Machine
end

section
/-! SUPPORT. The buffers at the allocator (R130 to R140, R176): rounding, a loop of writes and clears, an append that is
granted or refused, and the first byte of an emptied `inbound`. -/

namespace Sys2Proof.Machine

/-! ### Block rounding (R130) -/

/-- A multiple of the block size is its own rounding. -/
theorem roundUp_of_mod {cfg : Config} {m : Nat} (hb : 1 ≤ cfg.blockSize) (hm : m % cfg.blockSize = 0) :
    roundUp cfg m = m :=
  le_antisymm (roundUp_le_of_mod hb hm le_rfl) (le_roundUp hb m)

/-- Settles O8: the rounding is a multiple, not below its argument, and no multiple stands in between. -/
theorem roundUpLeast : Obligations.RoundUpLeast := by
  intro cfg x hb
  have hleast (m : Nat) (hm : m % cfg.blockSize = 0) (h : x ≤ m) : roundUp cfg x ≤ m := roundUp_le_of_mod hb hm h
  exact ⟨roundUp_mod cfg x, le_roundUp hb x, hleast, rfl, roundUp_of_mod hb (Nat.zero_mod _), roundUp_of_mod hb⟩

/-! ### A loop of writes and clears (R132, R135, R139) -/

@[simp] theorem State.setBuf_setBuf_same (s : State) (id : BufId) (b b' : Buffer) :
    (s.setBuf id b).setBuf id b' = s.setBuf id b' := by cases id <;> rfl

@[simp] theorem State.setBuf_buf_self (s : State) (id : BufId) : s.setBuf id (s.buf id) = s := by cases id <;> rfl

/-- BufClear of either buffer (R135). -/
theorem bufClear_eq (id : BufId) (s : State) :
    bufClear id s = { s with allocReqs := s.allocReqs ++ clearRequest id s }.setBuf id
      (Buffer.cleared (clearedCap s.cfg (s.buf id))) := by
  cases id
  case inbound => exact bufClear_inbound_eq s
  case outbound => exact bufClear_outbound_eq s

/-- A buffer as large as its bytes would ask for is not trimmed. -/
theorem clearedCap_of_grown {cfg : Config} {buf : Buffer} (h : buf.capacity = growCap cfg buf.length) :
    clearedCap cfg buf = buf.capacity := by
  unfold clearedCap
  split
  · exact h.symm
  · rfl

theorem bufClear_of_grown {id : BufId} {s : State} (h : (s.buf id).capacity = growCap s.cfg (s.buf id).length) :
    bufClear id s = s.setBuf id (Buffer.cleared (s.buf id).capacity) := by
  rw [bufClear_eq, clearRequest, clearedCap_of_grown h, if_neg (not_not.mpr rfl), List.append_nil]

/-- One round of R139's loop. -/
def writeThenClear (id : BufId) (s : State) (b : Byte) : State := bufClear id (bufWrite id b s).2

/-- The first round asks once, and leaves the capacity of its growth. -/
theorem writeThenClear_first {id : BufId} {s : State} (b : Byte) (h : s.buf id = Buffer.empty) (hg : nextGrant s = true) :
    (writeThenClear id s b).cfg = s.cfg ∧ (writeThenClear id s b).buf id = Buffer.cleared (growCap s.cfg 1) ∧
      (writeThenClear id s b).allocReqs = s.allocReqs ++ [⟨id, growCap s.cfg 1⟩] := by
  have hgrow : (s.buf id).capacity < (s.buf id).length + 1 := by simp [h, Buffer.empty]
  rw [writeThenClear, bufWrite_grows b hgrow hg, bufClear_of_grown (by simp [drawGrant_eq, h, Buffer.empty])]
  simp [drawGrant_eq, h, Buffer.empty]

/-- Every further round leaves everything as it was. -/
theorem writeThenClear_again {id : BufId} {s : State} (b : Byte) (hb : 1 ≤ s.cfg.blockSize)
    (h : s.buf id = Buffer.cleared (growCap s.cfg 1)) : writeThenClear id s b = s := by
  have hfits : (s.buf id).length + 1 ≤ (s.buf id).capacity := by rw [h]; exact le_growCap hb 1
  rw [writeThenClear, bufWrite_fits b hfits, bufClear_of_grown (by simp [h])]
  rw [State.buf_setBuf_same, State.setBuf_setBuf_same, Buffer.append_capacity, h, Buffer.cleared_capacity, ← h,
    State.setBuf_buf_self]

/-- The buffer has its floor, or no storage at all, under this configuration (R38). -/
abbrev HasFloor (id : BufId) (cfg : Config) (s : State) : Prop :=
  s.cfg = cfg ∧ (cfg.minFloor ≤ (s.buf id).capacity ∨ (s.buf id).length = 0 ∧ (s.buf id).capacity = 0)

theorem hasFloor_bufWrite {id : BufId} {cfg : Config} {s : State} (b : Byte) (h : HasFloor id cfg s) :
    HasFloor id cfg (bufWrite id b s).2 := by
  obtain ⟨rfl, hfloor⟩ := h
  rcases hw : bufWrite id b s with ⟨_ | _, u⟩
  case false =>
    obtain ⟨reqs, gs, n, rfl⟩ := bufWrite_false hw
    cases id <;> exact ⟨rfl, .inr ⟨rfl, rfl⟩⟩
  case true =>
    have hcap : s.cfg.minFloor ≤ appendedCap s.cfg (s.buf id) := by
      rw [appendedCap_eq]
      split
      · exact le_max_right _ _
      · omega
    obtain ⟨reqs, gs, n, rfl⟩ := bufWrite_true hw
    cases id <;> exact ⟨rfl, .inl hcap⟩

theorem hasFloor_bufClear {id : BufId} {cfg : Config} {s : State} (h : HasFloor id cfg s) :
    HasFloor id cfg (bufClear id s) := by
  obtain ⟨rfl, hfloor⟩ := h
  have hcap : s.cfg.minFloor ≤ clearedCap s.cfg (s.buf id) ∨ clearedCap s.cfg (s.buf id) = 0 := by
    unfold clearedCap
    split
    · exact .inl (le_max_right _ _)
    · exact hfloor.imp_right And.right
  rw [bufClear_eq]
  refine ⟨State.setBuf_cfg .., ?_⟩
  rw [State.buf_setBuf_same]
  exact hcap.imp_right fun hnone => ⟨rfl, hnone⟩

/-- Settles O9: the first round grows the buffer and no later one moves anything; a floor, once there, is never lost. -/
theorem hysteresis : Obligations.Hysteresis := by
  intro id s hb hempty
  refine ⟨?once, ?floor⟩
  case once =>
    intro bs hbs hg
    obtain ⟨b, bs, rfl⟩ := List.exists_cons_of_ne_nil hbs
    obtain ⟨hcfg, hbuf, hreqs⟩ := writeThenClear_first b hempty hg
    have hlater (c : Byte) : writeThenClear id (writeThenClear id s b) c = writeThenClear id s b :=
      writeThenClear_again c (by rwa [hcfg]) (by rwa [hcfg])
    show (bs.foldl (writeThenClear id) (writeThenClear id s b)).allocReqs = _
    rw [List.foldl_fixed' hlater]
    exact hreqs
  case floor =>
    intro ops t hpos
    have hstart : HasFloor id s.cfg s := ⟨rfl, .inr (by rw [hempty]; exact ⟨rfl, rfl⟩)⟩
    obtain ⟨-, hfloor⟩ : HasFloor id s.cfg t :=
      List.foldlRecOn (motive := HasFloor id s.cfg) ops _ hstart fun u hu op _ => by
        cases op with
        | some b => exact hasFloor_bufWrite b hu
        | none => exact hasFloor_bufClear hu
    omega

/-! ### An append at the answers listed (R131, R132, R176) -/

/-- BufRelease of either buffer (R136). -/
theorem bufRelease_eq (id : BufId) (s : State) :
    bufRelease id s =
      ({ s with allocReqs := s.allocReqs ++ releaseRequest id s } : State).setBuf id (Buffer.cleared 0) := by
  cases id
  case inbound => exact bufRelease_inbound_eq s
  case outbound => exact bufRelease_outbound_eq s

/-- BufWrite with a refusal the next answer listed: one request for the growth, one for the release of what was held, and the
answer used up (R131, R132, R136). -/
theorem bufWrite_refusal_listed {id : BufId} {s : State} {gs : List Bool} (b : Byte)
    (h : (s.buf id).capacity < (s.buf id).length + 1) (hfail : s.cfg.allocCanFail = true) (hgs : s.grants = false :: gs) :
    bufWrite id b s =
      (false, ({ s with
        allocReqs := s.allocReqs ++ [⟨id, growCap s.cfg ((s.buf id).length + 1)⟩] ++ releaseRequest id s
        grants := gs } : State).setBuf id (Buffer.cleared 0)) := by
  have hrefused : nextGrant s = false := by rw [nextGrant, if_pos hfail, hgs]
  have hasked (n : Nat) :
      drawGrant (s.logAlloc id n) = { s with allocReqs := s.allocReqs ++ [⟨id, n⟩], grants := gs } := by
    simp [drawGrant_eq, State.logAlloc, hfail, hgs]
  rw [bufWrite_refused b h hrefused, hasked, bufRelease_eq]
  cases id <;> rfl

theorem appendInbound_full {s : State} (v : Byte) (h : s.cfg.maxLen ≤ s.inbound.length) :
    appendInbound v s = discard .overflow s := if_pos h

/-- An append that fits into the frame and that the allocator refuses (R176). -/
theorem appendInbound_refused {s : State} {gs : List Bool} (v : Byte) (hroom : s.inbound.length < s.cfg.maxLen)
    (h : s.inbound.capacity < s.inbound.length + 1) (hfail : s.cfg.allocCanFail = true) (hgs : s.grants = false :: gs) :
    appendInbound v s = discard .allocFail { s with
      inbound := Buffer.cleared 0
      allocReqs := s.allocReqs ++ [⟨.inbound, growCap s.cfg (s.inbound.length + 1)⟩] ++ releaseRequest .inbound s
      grants := gs } := by
  rw [appendInbound, if_neg (Nat.not_le.mpr hroom), bufWrite_refusal_listed v (by exact h) hfail hgs]
  rfl

/-! ### The first byte of an emptied `inbound` (R140) -/

/-- A sound buffer without storage is the released one (R38, R136). -/
theorem Buffer.eq_cleared_of_sound {cfg : Config} {buf : Buffer} (h : buf.Sound cfg) (hcap : buf.capacity = 0) :
    buf = Buffer.cleared 0 := by
  obtain ⟨hkeys, hpos, hlen, -⟩ := h
  obtain ⟨storage, length, position, capacity⟩ := buf
  obtain rfl : capacity = 0 := hcap
  obtain rfl : length = 0 := Nat.le_zero.mp hlen
  obtain rfl : position = 0 := Nat.le_zero.mp hpos
  obtain rfl : storage = [] := List.map_eq_nil_iff.mp hkeys
  rfl

/-- What an emptied buffer holds after one granted append. -/
theorem pushed_resetBuffer {cfg : Config} {buf : Buffer} (v : Byte) (h : buf.Sound cfg) :
    ((resetBuffer cfg buf).pushed cfg v).bytes = [v] ∧ ((resetBuffer cfg buf).pushed cfg v).length = 1 ∧
      ((resetBuffer cfg buf).pushed cfg v).position = 0 := by
  have hlen := resetBuffer_length cfg buf
  refine ⟨by rw [bytes_pushed, resetBuffer_bytes]; rfl, by rw [Buffer.pushed_length, hlen], ?_⟩
  rw [Buffer.pushed_position, resetBuffer]
  split
  next hempty =>
    obtain ⟨-, hpos, -⟩ := h
    omega
  · rfl

theorem bufWrite_resetInbound_granted {s : State} (v : Byte) (hg : GrantsFor 1 s) :
    bufWrite .inbound v (resetInbound s) = (true, { s with
      inbound := (resetBuffer s.cfg s.inbound).pushed s.cfg v
      allocReqs := s.allocReqs ++ resetRequest s ++ appendRequest .inbound s.cfg (resetBuffer s.cfg s.inbound)
      grants := appendGrants (resetBuffer s.cfg s.inbound) s }) := by
  rw [resetInbound_eq, bufWrite_granted v (by exact hg)]
  rfl

/-- A released `inbound` has nothing to trim and nothing to release. -/
theorem bufWrite_resetInbound_refused {s : State} {gs : List Bool} (v : Byte) (h : s.inbound = Buffer.cleared 0)
    (hfail : s.cfg.allocCanFail = true) (hgs : s.grants = false :: gs) :
    bufWrite .inbound v (resetInbound s) = (false, { s with
      allocReqs := s.allocReqs ++ [⟨.inbound, growCap s.cfg 1⟩]
      grants := gs }) := by
  have hreset : resetInbound s = s := if_neg (by simp [h])
  rw [hreset, bufWrite_refusal_listed v (by simp [h]) hfail hgs]
  simp [h, releaseRequest, State.setBuf]

end Sys2Proof.Machine
end

section
/-! SUPPORT. The operations that append (R169 to R176, R256, R258): the payload byte that a second digit completes, WRITE and
REQFROM. -/

namespace Sys2Proof.Machine

/-! ### The payload byte that a second digit completes (R169, R170) -/

/-- The byte count saturates (R13(2), R29). -/
theorem satSucc_eq_half_min (x : Half) : satSucc x = half (min (x.toNat + 1) 0xFFFF) := by
  by_cases h : x = 0xFFFF#16
  · subst h
    rfl
  · have hx : x.toNat + 1 ≤ 65535 := by bv_omega
    rw [satSucc_eq_half hx, Nat.min_eq_left hx]

/-- A digit pair is over, then its byte is counted (R169, R170). -/
theorem countPayload_second (v : Byte) (s : State) : countPayload v { s with scratchLen := 0 } = afterByte v s := by
  rw [countPayload, afterByte, satSucc_eq_half_min]

theorem afterByte_frameBytes (v : Byte) (s : State) : (afterByte v s).frameBytes = satSucc s.frameBytes :=
  (satSucc_eq_half_min _).symm

theorem satSucc_eq_two_iff (x : Half) : satSucc x = 2#16 ↔ x = 1#16 := by
  unfold satSucc
  split
  · next h => subst h; decide
  · bv_omega

section
variable {b v : Byte} {s : State}

/-- The second digit of a pair runs its byte (R169). -/
theorem exec_secondDigit (h : SecondDigit s b v) :
    exec (.feedHEXDIGIT b) s = .next (payloadByte v { s with scratchLen := 0 }) := by
  obtain ⟨hsvc, hkind, hcrc, hlen, hi, lo, hfirst, hsecond, hv⟩ := h
  have hpair : v = pairValue hi lo := BitVec.eq_of_toNat_eq (by rw [hv, pairValue_toNat])
  show feed b s = _
  rw [feed_ready hsvc, feedReady_hex hsecond hkind hcrc, hexChar_second hlen hfirst, hpair]

theorem payloadByte_of_transmit (hkind : s.commandKind = .masterTransmit) :
    payloadByte v s = transmitByte v (countPayload v s) := by rw [payloadByte, hkind]

theorem payloadByte_of_request (hkind : s.commandKind = .masterRequest) :
    payloadByte v s = requestByte v (countPayload v s) := by rw [payloadByte, hkind]

theorem payloadByte_of_nacked_request (hkind : s.commandKind = .sendDiscarded) :
    payloadByte v s = nackedRequestByte v (countPayload v s) := by rw [payloadByte, hkind]

theorem payloadByte_of_response (hkind : s.commandKind = .slaveResponse) :
    payloadByte v s = responseByte v (countPayload v s) := by rw [payloadByte, hkind]

theorem exec_transmitByte (h : SecondDigit s b v) (hkind : s.commandKind = .masterTransmit) :
    exec (.feedHEXDIGIT b) s = .next (transmitByte v (afterByte v s)) := by
  rw [exec_secondDigit h, payloadByte_of_transmit (by exact hkind), countPayload_second]

theorem exec_requestByte (h : SecondDigit s b v) (hkind : s.commandKind = .masterRequest) :
    exec (.feedHEXDIGIT b) s = .next (requestByte v (afterByte v s)) := by
  rw [exec_secondDigit h, payloadByte_of_request (by exact hkind), countPayload_second]

theorem exec_nackedRequestByte (h : SecondDigit s b v) (hkind : s.commandKind = .sendDiscarded) :
    exec (.feedHEXDIGIT b) s = .next (nackedRequestByte v (afterByte v s)) := by
  rw [exec_secondDigit h, payloadByte_of_nacked_request (by exact hkind), countPayload_second]

theorem exec_responseByte (h : SecondDigit s b v) (hkind : s.commandKind = .slaveResponse) :
    exec (.feedHEXDIGIT b) s = .next (responseByte v (afterByte v s)) := by
  rw [exec_secondDigit h, payloadByte_of_response (by exact hkind), countPayload_second]

/-- The address byte of a frame for this block while nothing goes on (R172, R173). -/
theorem exec_addressByte (h : SecondDigit s b v) (hbytes : s.frameBytes = 0#16)
    (hkind : s.commandKind = .masterTransmit ∨ s.commandKind = .masterRequest) (hmatch : addrMatch s v = true)
    (hidle : s.outboundState = .idle) (hwait : s.waitActive = false) :
    exec (.feedHEXDIGIT b) s = .next (acceptAddress v (afterByte v s)) := by
  have hfirst : (afterByte v s).frameBytes = 1#16 := by rw [afterByte_frameBytes, satSucc_eq_one_iff, hbytes]
  have hforUs : addrMatch (afterByte v s) v = true := hmatch
  have hnoWait : (afterByte v s).waitActive = false := hwait
  have hnoSend : (afterByte v s).outboundState = .idle := hidle
  rcases hkind with hk | hk
  · rw [exec_transmitByte h hk, transmitByte]
    simp [hfirst, hforUs, hnoWait, hnoSend]
  · rw [exec_requestByte h hk, requestByte]
    simp [hfirst, hforUs, hnoWait, hnoSend]

/-- A further payload byte that goes to `inbound`: of a transmit frame, the second of a request, or of the awaited response
in flight (R172, R173, R175). -/
abbrev DataByteDue (s : State) : Prop :=
  s.commandKind = .masterTransmit ∨ (s.commandKind = .masterRequest ∧ s.frameBytes = 1#16) ∨
    (s.commandKind = .slaveResponse ∧ s.outboundState = .filling ∧ s.inboundActive = true)

/-- What a further payload byte moves before it is appended: a request's length byte is `svcLen` too (R170, R173). -/
def beforeAppend (v : Byte) (s : State) : State :=
  { afterByte v s with svcLen := if s.commandKind = .masterRequest then v else s.svcLen }

theorem beforeAppend_of_not_request (h : s.commandKind ≠ .masterRequest) : beforeAppend v s = afterByte v s := by
  rw [beforeAppend, if_neg h]
  rfl

theorem beforeAppend_of_request (h : s.commandKind = .masterRequest) :
    beforeAppend v s = { afterByte v s with svcLen := v } := by
  rw [beforeAppend, if_pos h]

/-- A further payload byte of a frame in flight is appended, whichever kind the frame is of (R172, R173, R175). -/
theorem exec_dataByte (h : SecondDigit s b v) (hbytes : s.frameBytes ≠ 0#16) (hdue : DataByteDue s) :
    exec (.feedHEXDIGIT b) s = .next (appendInbound v (beforeAppend v s)) := by
  have hlater : (afterByte v s).frameBytes ≠ 1#16 := by rwa [afterByte_frameBytes, Ne, satSucc_eq_one_iff]
  rcases hdue with hk | ⟨hk, hone⟩ | ⟨hk, hfilling, hactive⟩
  · rw [exec_transmitByte h hk, transmitByte, if_neg hlater, beforeAppend_of_not_request (by simp [hk])]
  · have hsecond : (afterByte v s).frameBytes = 2#16 := by rw [afterByte_frameBytes, satSucc_eq_two_iff, hone]
    rw [exec_requestByte h hk, requestByte, if_neg hlater, if_pos hsecond, beforeAppend_of_request hk]
  · rw [exec_responseByte h hk, responseByte, if_neg hlater, if_pos (by exact ⟨hfilling, hactive⟩),
      beforeAppend_of_not_request (by simp [hk])]

/-- A third payload byte of a request, taken or refused (R173, R174). -/
theorem exec_thirdRequestByte (h : SecondDigit s b v)
    (hkind : s.commandKind = .sendDiscarded ∨ s.commandKind = .masterRequest) (hbytes : 2 ≤ s.frameBytes.toNat) :
    exec (.feedHEXDIGIT b) s = .next (discard .tooLong (afterByte v s)) := by
  have hlater : (afterByte v s).frameBytes ≠ 1#16 := by
    rw [afterByte_frameBytes, Ne, satSucc_eq_one_iff]
    intro hzero
    simp [hzero] at hbytes
  have hthird : (afterByte v s).frameBytes ≠ 2#16 := by
    rw [afterByte_frameBytes, Ne, satSucc_eq_two_iff]
    intro hone
    simp [hone] at hbytes
  rcases hkind with hk | hk
  · rw [exec_nackedRequestByte h hk, nackedRequestByte, if_neg hthird]
  · rw [exec_requestByte h hk, requestByte, if_neg hlater, if_neg hthird]

end

/-! ### The address byte (R140, R172, R173) -/

theorem acceptAddress_eq (v : Byte) (s : State) :
    acceptAddress v s = appendInbound v (resetInbound { s with inboundActive := true }) := by
  rw [acceptAddress, resetInbound_eq, resetInbound_eq]
  rfl

theorem resetInbound_room {s : State} (h : s.cfg.Legal) : (resetInbound s).inbound.length < (resetInbound s).cfg.maxLen := by
  obtain ⟨hmin, -⟩ := h
  rw [resetInbound_eq, resetBuffer_length]
  exact Nat.zero_lt_of_lt hmin

theorem acceptAddress_granted {s : State} (v : Byte) (hlegal : s.cfg.Legal) (hg : GrantsFor 1 s) :
    acceptAddress v s = { s with
      inboundActive := true
      inbound := (resetBuffer s.cfg s.inbound).pushed s.cfg v
      allocReqs := s.allocReqs ++ resetRequest s ++ appendRequest .inbound s.cfg (resetBuffer s.cfg s.inbound)
      grants := appendGrants (resetBuffer s.cfg s.inbound) s } := by
  have hroom := resetInbound_room (s := { s with inboundActive := true }) hlegal
  rw [acceptAddress_eq, appendInbound, if_neg (Nat.not_le.mpr hroom), bufWrite_resetInbound_granted v (by exact hg)]
  rfl

theorem acceptAddress_refused {s : State} {gs : List Bool} (v : Byte) (hlegal : s.cfg.Legal)
    (h : s.inbound = Buffer.cleared 0) (hfail : s.cfg.allocCanFail = true) (hgs : s.grants = false :: gs) :
    acceptAddress v s = discard .allocFail { s with
      inboundActive := true
      allocReqs := s.allocReqs ++ [⟨.inbound, growCap s.cfg 1⟩]
      grants := gs } := by
  have hroom := resetInbound_room (s := { s with inboundActive := true }) hlegal
  rw [acceptAddress_eq, appendInbound, if_neg (Nat.not_le.mpr hroom),
    bufWrite_resetInbound_refused v (by exact h) (by exact hfail) (by exact hgs)]

/-! ### The statements on bytes that arrive -/

/-- Settles O18: `inbound` is emptied, then takes the byte or is refused its growth. -/
theorem addressAccepted : Obligations.AddressAccepted := by
  intro b v s hdigit hbytes hkind hmatch hidle hwait hlegal hsound
  rw [exec_addressByte hdigit hbytes hkind hmatch hidle hwait]
  refine ⟨fun hg => ?_, fun gs hcap hfail hgs => ?_⟩
  · rw [acceptAddress_granted v (by exact hlegal) (by exact hg)]
    obtain ⟨hcontent, hlength, hposition⟩ := pushed_resetBuffer v hsound
    exact ⟨_, rfl, hcontent, hlength, hposition, rfl, rfl⟩
  · have hempty : (afterByte v s).inbound = Buffer.cleared 0 := Buffer.eq_cleared_of_sound hsound hcap
    rw [acceptAddress_refused v (by exact hlegal) hempty (by exact hfail) (by exact hgs)]
    rfl

/-- Settles O19: the three kinds of further byte are one append. -/
theorem dataByteAppended : Obligations.DataByteAppended := by
  intro b v s hdigit hbytes hdue hlegal hsound hroom hg
  rw [exec_dataByte hdigit hbytes hdue, appendInbound_granted v (by exact hroom) (by exact hg)]
  exact ⟨_, rfl, bytes_pushed s.cfg s.inbound v, rfl, rfl, rfl, rfl⟩

/-- Settles O20: the further byte meets a full buffer or a refused growth; a request's third byte is TooLong. -/
theorem bytesTurnedAway : Obligations.BytesTurnedAway := by
  intro b v s hdigit
  refine ⟨fun hbytes hdue hfull => ?full, fun gs hbytes hdue hroom hcap hfail hgs => ?refused,
    fun hkind hbytes => ?length, exec_thirdRequestByte hdigit⟩
  case full =>
    rw [exec_dataByte hdigit hbytes hdue, appendInbound_full v (by exact hfull)]
    rfl
  case refused =>
    have hgrow : s.inbound.capacity < s.inbound.length + 1 := by omega
    rw [exec_dataByte hdigit hbytes hdue, appendInbound_refused v (by exact hroom) (by exact hgrow)
      (by exact hfail) (by exact hgs)]
    rfl
  case length =>
    have hsecond : (afterByte v s).frameBytes = 2#16 := by rw [afterByte_frameBytes, satSucc_eq_two_iff, hbytes]
    rw [exec_nackedRequestByte hdigit hkind, nackedRequestByte, if_pos hsecond]

/-! ### The commands that append (R256, R258) -/

theorem writable_iff (s : State) : writable s = true ↔ s.outboundState = .locked ∨ s.svc = .request := by
  simp [writable]

/-- WRITE that is taken answers what BufWrite does (R256). -/
theorem exec_write {s u : State} {a b : Byte} {ok : Bool} (hopen : s.outboundState = .locked ∨ s.svc = .request)
    (hroom : s.outbound.length < s.cfg.maxLen - 1) (hw : bufWrite .outbound a s = (ok, u)) :
    exec (.cmdWrite a b) s = .next (if ok then u.respond .ok 1 else u.respond .allocFail 0) := by
  show Host.Outcome.next _ = _
  rw [(writable_iff s).mpr hopen, if_neg (by simp), if_neg (Nat.not_le.mpr hroom), hw]
  cases ok <;> rfl

/-- The request line goes out and the wait begins (R235, R258). -/
theorem startWait_eq (a n : Byte) (s : State) :
    startWait a n s = { s with
      reqAddr := a
      reqCount := n
      waitActive := true
      waitTimer := s.timeout
      tx := s.tx ++ sentLine .i2cr [a, n] (lineSum s.cfg [a, n]) } := by
  rw [← frameItems_eq]
  rfl

/-- REQFROM that no check refuses sends and waits iff BufWrite takes the address (R258). -/
theorem exec_reqfrom {s u : State} {a n : Byte} {ok : Bool} (hpass : requestRefusal a n s = none)
    (hw : bufWrite .inbound a (resetInbound { s with outboundState := .fillingWait }) = (ok, u)) :
    exec (.cmdReqfrom a n) s = .next (
      if ok then (startWait a n u).respond .ok 0 else { u with outboundState := .idle }.respond .allocFail 0) := by
  show Host.Outcome.next _ = _
  rw [hpass]
  dsimp only
  rw [hw]
  cases ok <;> rfl

/-- Settles O48: the two refusals, then BufWrite granted and refused. -/
theorem byteWritten : Obligations.ByteWritten := by
  intro a b s
  refine ⟨fun hlocked hrequest => ?closed, fun hopen hfull => ?full, fun hopen hroom hlegal hsound hg => ?granted,
    fun gs hopen hroom hcap hfail hgs => ?refused⟩
  case closed =>
    have hclosed : writable s = false := by simp [writable, hlocked, hrequest]
    show Host.Outcome.next _ = _
    rw [hclosed]
    rfl
  case full =>
    show Host.Outcome.next _ = _
    rw [(writable_iff s).mpr hopen, if_neg (by simp), if_pos (by exact hfull)]
    rfl
  case granted =>
    rw [exec_write hopen hroom (bufWrite_granted a hg)]
    exact ⟨_, rfl, bytes_pushed s.cfg s.outbound a, rfl, rfl, rfl, rfl⟩
  case refused =>
    have hgrow : s.outbound.capacity < s.outbound.length + 1 := by omega
    rw [exec_write hopen hroom (bufWrite_refusal_listed a hgrow hfail hgs)]
    rfl

/-- Settles O51: every check passes, then `inbound` is emptied and takes the address or is refused its growth. -/
theorem requestSent : Obligations.RequestSent := by
  intro a n s hmaster hopen hidle hwait hsvc hin hcount haddr hother hlegal hsound
  have hpass : requestRefusal a n s = none := by
    simp [requestRefusal, transactionBusy, begun, hmaster, hopen, hidle, hwait, hsvc, hin, hcount, haddr, hother]
  refine ⟨fun hg => ?granted, fun gs hcap hfail hgs => ?refused⟩
  case granted =>
    obtain ⟨hcontent, hlength, hposition⟩ := pushed_resetBuffer a hsound
    rw [exec_reqfrom hpass (bufWrite_resetInbound_granted a hg), if_pos rfl, startWait_eq]
    exact ⟨_, rfl, hcontent, hlength, hposition, rfl, rfl⟩
  case refused =>
    have hempty := Buffer.eq_cleared_of_sound hsound hcap
    rw [exec_reqfrom hpass (bufWrite_resetInbound_refused a hempty hfail hgs), ← hidle]
    rfl

end Sys2Proof.Machine
end

section
/-! SUPPORT. One received byte by the parser's phase (R160 to R180): bytes that are ignored, the characters of a header, of
a payload's pairs and of a suffix. -/

namespace Sys2Proof.Machine

section
variable {i : Instr} {b v : Byte} {s : State}

/-! ### Which byte an operation feeds (R101) -/

/-- A well-formed operation that stands on the port as a byte is that byte's own. -/
theorem ofByte_of_encode (hwf : i.wellFormed = true) (he : encode i = .byte b) : Decode.ofByte b = i := by
  have hdecode := decodeEncode i hwf
  rw [he] at hdecode
  exact Except.ok.inj hdecode

theorem ne_lineByte_of_encode (hwf : i.wellFormed = true) (he : encode i = .byte b) (hlf : i ≠ .feedLF)
    (hcr : i ≠ .feedCR) : b ≠ charLF ∧ b ≠ charCR := by
  have hown := ofByte_of_encode hwf he
  exact ⟨by rintro rfl; exact hlf hown.symm, by rintro rfl; exact hcr hown.symm⟩

theorem exec_byte (he : encode i = .byte b) (hsvc : s.svc = .none) : exec i s = feedReady b s :=
  (exec_of_encode_byte he s).trans (feed_ready hsvc)

/-- A line's text ends at its only line feed (R90). -/
theorem exists_eq_append_lf_of_encode {text : List Byte} (h : encode i = .line text) :
    ∃ cs, text = cs ++ [charLF] ∧ charLF ∉ cs := by
  cases i <;> cases h <;> exact line_eq_append_lf _ _ _

/-! ### The class of a byte by its tests (R101) -/

theorem classOf_eq_sep_iff (b : Byte) : classOf b = .sep ↔ isSep b = true := by
  obtain ⟨-, -, -, -, hsep, -⟩ := byteClasses b
  rw [hsep, isSep_iff]

theorem classOf_eq_hexDigit_iff (b : Byte) : classOf b = .hexDigit ↔ ∃ d, hexVal? b = some d := by
  obtain ⟨-, -, -, -, -, hhex, -⟩ := byteClasses b
  rw [hhex, ← isHex_iff, isHex, Option.isSome_iff_exists]

theorem hexVal?_of_classOf (h : classOf b ≠ .hexDigit) : hexVal? b = none :=
  Option.eq_none_iff_forall_ne_some.mpr fun d hd => h ((classOf_eq_hexDigit_iff b).mpr ⟨d, hd⟩)

theorem ne_lineByte_of_classOf (hlf : classOf b ≠ .lf) (hcr : classOf b ≠ .cr) : b ≠ charLF ∧ b ≠ charCR :=
  ⟨by rintro rfl; exact hlf rfl, by rintro rfl; exact hcr rfl⟩

/-! ### The header (R163 to R167) -/

/-- A Discard at the start of a line finds no scratch cell filled (R163). -/
theorem discard_of_scratchLen_eq_zero (r : Reason) (h : s.scratchLen = 0) :
    discard r s = { s with
      diag := s.diag ++ if s.cfg.diagEnable then [r] else []
      commandKind := .discard
      inCrc := false
      crcDigits := 0
      inbound := if s.inboundActive || awaiting s then Buffer.cleared (clearedCap s.cfg s.inbound) else s.inbound
      allocReqs := s.allocReqs ++ if s.inboundActive || awaiting s then clearRequest .inbound s else []
      inboundActive := false
      outboundState := if awaiting s then .idle else s.outboundState } := by
  have hdiag : (if s.cfg.diagEnable then s.diag ++ [r] else s.diag) = s.diag ++ if s.cfg.diagEnable then [r] else [] := by
    split <;> simp
  rw [discard_eq, hdiag, ite_and, h]
  rfl

theorem cells_set (c : Scratch) {n : Nat} (b : Byte) (hn : n < 6) : (c.set n b).cells = c.cells.set n b := by
  interval_cases n <;> rfl

/-- Six characters fill the scratch cells. -/
theorem exists_scratch_cells_eq {cs : List Byte} (h : cs.length = 6) : ∃ c : Scratch, c.cells = cs := by
  match cs, h with
  | [c0, c1, c2, c3, c4, c5], _ => exact ⟨⟨c0, c1, c2, c3, c4, c5⟩, rfl⟩

theorem matchHeader_of_map_upper {cs : List Byte} {k : Keyword} (h : cs.map upper = header k) :
    matchHeader cs = some k := by
  rw [matchHeader, h]
  cases k <;> decide

theorem matchHeader_eq_none {cs : List Byte} (h : ∀ k, cs.map upper ≠ header k) : matchHeader cs = none :=
  Option.eq_none_iff_forall_ne_some.mpr fun k hk => h k (matchHeader_eq_some hk)

/-- No character of a header, in either case, is a line byte. -/
theorem ne_lineByte_of_map_upper {cs : List Byte} {k : Keyword} (h : cs.map upper = header k) (hb : b ∈ cs) :
    b ≠ charLF ∧ b ≠ charCR := by
  have hmem : upper b ∈ header k := h ▸ List.mem_map_of_mem hb
  have hlf : upper charLF ∉ header k := by cases k <;> decide
  have hcr : upper charCR ∉ header k := by cases k <;> decide
  exact ⟨by rintro rfl; exact hlf hmem, by rintro rfl; exact hcr hmem⟩

/-- The first character of a header is the `+`. -/
theorem c0_of_map_upper {c : Scratch} {k : Keyword} (h : c.cells.map upper = header k) : c.c0 = charPlus := by
  have hheader : header k = charPlus :: (header k).tail := by cases k <;> rfl
  exact upper_eq_plus (List.head_eq_of_cons_eq (h.trans hheader))

/-! ### The characters of a payload and its suffix (R169, R177 to R180) -/

theorem afterByte_frameBytes_eq_one_iff : (afterByte v s).frameBytes = 1#16 ↔ s.frameBytes = 0#16 := by
  rw [afterByte_frameBytes, satSucc_eq_one_iff]

theorem payloadChar_sep (hcrc : s.inCrc = false) (hb : classOf b = .sep) : payloadChar b s = .next (separator s) := by
  have hsep := (classOf_eq_sep_iff b).mp hb
  rw [payloadChar, hcrc, hexVal?_of_isSep hsep]
  exact if_pos hsep

theorem payloadChar_hash (hcrc : s.inCrc = false) : payloadChar charHash s = .next (hashMark s) := by
  rw [payloadChar, hcrc]
  rfl

/-- A `+`, or a character of no other class, is illegal in a payload (R180). -/
theorem payloadChar_illegal (hcrc : s.inCrc = false) (hb : classOf b = .plus ∨ classOf b = .other) :
    payloadChar b s = .next (discard .badChar s) := by
  have hhex : classOf b ≠ .hexDigit := by rcases hb with hb | hb <;> simp [hb]
  have hsep : ¬isSep b = true := by rw [← classOf_eq_sep_iff]; rcases hb with hb | hb <;> simp [hb]
  have hhash : b ≠ charHash := by rintro rfl; rcases hb with hb | hb <;> cases hb
  rw [payloadChar, hcrc, hexVal?_of_classOf hhex]
  exact (if_neg hsep).trans (if_neg hhash)

/-- After `#` nothing but a hex digit can stand before the line end (R179). -/
theorem payloadChar_suffix_illegal (hcrc : s.inCrc = true) (hb : classOf b ≠ .hexDigit) :
    payloadChar b s = .next (discard .crcSyntax s) := by
  rw [payloadChar, if_pos hcrc, crcChar, hexVal?_of_classOf hb]

/-- A suffix has no fifth digit (R179). -/
theorem payloadChar_suffix_full (hcrc : s.inCrc = true) (hb : classOf b = .hexDigit) (hfull : s.crcDigits = 4) :
    payloadChar b s = .next (discard .crcSyntax s) := by
  obtain ⟨d, hd⟩ := (classOf_eq_hexDigit_iff b).mp hb
  rw [payloadChar, if_pos hcrc, crcChar, hd]
  exact congrArg _ (if_neg (by simp [hfull]))

theorem succDigits_eq {m n : Fin 5} (h : m.val < 4) (hn : n.val = m.val + 1) : succDigits m = n := by
  rw [succDigits, dif_pos h]
  exact Fin.ext hn.symm

theorem shiftDigit_eq_ofNat (w : Half) (d : BitVec 4) : shiftDigit w d = BitVec.ofNat 16 (w.toNat * 16 + d.toNat) :=
  BitVec.eq_of_toNat_eq (by rw [shiftDigit_toNat, BitVec.toNat_ofNat])

end

/-! ### The statements on lines and headers -/

/-- Settles O6: a line operation feeds its text, whose only line feed is its last character. -/
theorem lineIsItsBytes : Obligations.LineIsItsBytes := by
  intro i text s he hsvc
  obtain ⟨cs, rfl, hcs⟩ := exists_eq_append_lf_of_encode he
  rw [exec_of_encode_line he, feedBytes_eq_feedText charLF hcs hsvc]

/-- Settles O12: the carriage return, then the bytes of a skipped line. -/
theorem ignoredBytes : Obligations.IgnoredBytes := by
  refine ⟨fun s hsvc => (exec_byte rfl hsvc).trans (feedReady_cr s), fun i b s hi hwf hsvc hkind => ?_⟩
  have hskip {c : Byte} (he : encode i = .byte c) (hlf : i ≠ .feedLF) (hcr : i ≠ .feedCR) : exec i s = .next s :=
    (exec_byte he hsvc).trans (feedReady_skips ⟨hsvc, hkind⟩ (ne_lineByte_of_encode hwf he hlf hcr).1)
  rcases hi with rfl | rfl | rfl | rfl | rfl
  all_goals exact hskip rfl nofun nofun

/-- Settles O13: a first character that is no `+` is BadStart, whose Discard is written out. -/
theorem badStart : Obligations.BadStart := by
  intro i b s hi hwf hsvc hkind hlen
  have hstart {c : Byte} (he : encode i = .byte c) (hlf : i ≠ .feedLF) (hcr : i ≠ .feedCR) (hplus : i ≠ .feedPLUS) :
      exec i s = .next (discard .badStart s) := by
    have hc : c ≠ charPlus := by
      rintro rfl
      exact hplus (ofByte_of_encode hwf he).symm
    rw [exec_byte he hsvc, feedReady_header hkind (ne_lineByte_of_encode hwf he hlf hcr), headerChar,
      if_pos ⟨hlen, hc⟩]
  rw [← discard_of_scratchLen_eq_zero .badStart hlen]
  rcases hi with rfl | rfl | rfl | rfl
  all_goals exact hstart rfl nofun nofun nofun

/-- Settles O14: the character goes into the next cell, as in a text of that one character. -/
theorem headerCollected : Obligations.HeaderCollected := by
  intro i b s n hi hwf hsvc hkind hroom hstart hn
  have hcollect (he : encode i = .byte b) (hlf : i ≠ .feedLF) (hcr : i ≠ .feedCR) :
      exec i s = .next { s with scratch := s.scratch.set s.scratchLen.val b, scratchLen := n } := by
    have hplus : s.scratchLen = 0 → b = charPlus := by
      intro hlen
      obtain rfl := hstart hlen
      exact (Stimulus.byte.inj he).symm
    have hnext : n = ⟨s.scratchLen.val + 1, by omega⟩ := Fin.ext hn
    rw [exec_of_encode_byte he, ← feedText_singleton, hnext]
    exact feedText_header_char [] hsvc hkind (ne_lineByte_of_encode hwf he hlf hcr) hroom hplus
  refine ⟨_, ?_, cells_set s.scratch b (Nat.lt_succ_of_lt hroom)⟩
  rcases hi with ⟨rfl, rfl⟩ | ⟨rfl, rfl⟩ | rfl | rfl | rfl
  all_goals exact hcollect rfl nofun nofun

/-- Settles O15: six characters fill the scratch cells and are compared with the three headers. -/
theorem headerMatched : Obligations.HeaderMatched := by
  intro cs s hlen hready
  obtain ⟨c, rfl⟩ := exists_scratch_cells_eq hlen
  have hfeed (hplus : c.c0 = charPlus) (hbody : ∀ b ∈ c.cells, b ≠ charLF ∧ b ≠ charCR) :
      feedText c.cells s = .next (headerComplete { s with scratch := c, scratchLen := 6 }) := by
    have hcells := feedText_header_cells [] hready hplus hbody
    rwa [List.append_nil] at hcells
  obtain ⟨-, hstart, -⟩ := hready
  refine ⟨fun k hk => ⟨c, rfl, ?header⟩, fun hplus hlf hcr hk => ⟨c, rfl, ?noHeader⟩⟩
  case header =>
    rw [hfeed (c0_of_map_upper hk) fun b => ne_lineByte_of_map_upper hk, headerComplete, matchHeader_of_map_upper hk,
      hstart]
    rfl
  case noHeader =>
    have hbody : ∀ b ∈ c.cells, b ≠ charLF ∧ b ≠ charCR := fun b hb =>
      ⟨by rintro rfl; exact hlf hb, by rintro rfl; exact hcr hb⟩
    rw [hfeed (Option.some.inj hplus) hbody, headerComplete, matchHeader_eq_none hk]

/-! ### The statements on payloads -/

/-- Settles O16: the digit is the first of its pair or the second. -/
theorem digitPairs : Obligations.DigitPairs := by
  intro b s hsvc hkind hcrc hclass
  refine ⟨fun hlen => ?first, fun hi lo hlen hfirst hsecond => ?second⟩
  case first =>
    obtain ⟨d, hd⟩ := (classOf_eq_hexDigit_iff b).mp hclass
    rw [exec_byte rfl hsvc, feedReady_hex hd hkind hcrc, hexChar_first hlen]
  case second =>
    rw [exec_byte rfl hsvc, feedReady_hex hsecond hkind hcrc, hexChar_second hlen hfirst, ← pairValue_toNat,
      BitVec.ofNat_toNat, BitVec.setWidth_eq]

/-- Settles O17: the checks of the address byte in their order. -/
theorem addressRefused : Obligations.AddressRefused := by
  intro b v s hdigit hbytes hkind
  have hfirst := (afterByte_frameBytes_eq_one_iff (v := v)).mpr hbytes
  have haddr : addrMatch (afterByte v s) v = addrMatch s v := rfl
  refine ⟨fun hmatch => ?wrongAddress, fun hmatch hk hbusy => ?transmitBusy, fun hmatch hk hwait => ?nacked,
    fun hmatch hk hwait hbusy => ?requestBusy⟩
  case wrongAddress =>
    rcases hkind with hk | hk
    · rw [exec_transmitByte hdigit hk, transmitByte, if_pos hfirst, haddr, hmatch]
      rfl
    · rw [exec_requestByte hdigit hk, requestByte, if_pos hfirst, haddr, hmatch]
      rfl
  case transmitBusy =>
    rw [exec_transmitByte hdigit hk, transmitByte, if_pos hfirst, haddr, hmatch, if_neg (by simp),
      if_pos (by exact hbusy)]
  case nacked =>
    rw [exec_requestByte hdigit hk, requestByte, if_pos hfirst, haddr, hmatch, if_neg (by simp), if_pos (by exact hwait)]
  case requestBusy =>
    have hnoWait : (afterByte v s).waitActive = false := hwait
    rw [exec_requestByte hdigit hk, requestByte, if_pos hfirst, haddr, hmatch, if_neg (by simp), hnoWait,
      if_neg (by simp), if_pos (by exact hbusy)]

/-- Settles O21: the first payload byte of the line, then a later one. -/
theorem responseAddress : Obligations.ResponseAddress := by
  intro b v s hdigit hkind
  have hfirst := afterByte_frameBytes_eq_one_iff (v := v) (s := s)
  rw [exec_responseByte hdigit hkind, responseByte]
  refine ⟨fun hbytes hwait haddr => ?confirmed, fun hbytes hnot => ?unexpected, fun hbytes hnot => ?later⟩
  case confirmed => rw [if_pos (hfirst.mpr hbytes), if_pos (by exact ⟨hwait, haddr⟩)]
  case unexpected => rw [if_pos (hfirst.mpr hbytes), if_neg (by exact hnot)]
  case later => rw [if_neg (mt hfirst.mp hbytes), if_neg (by exact hnot)]

/-- Settles O22: each character by its class, between the pairs and after `#`. -/
theorem payloadCharacters : Obligations.PayloadCharacters := by
  intro b s hsvc hkind
  have hchar {i : Instr} {c : Byte} (he : encode i = .byte c) (hlf : classOf c ≠ .lf) (hcr : classOf c ≠ .cr) :
      exec i s = payloadChar c s := by
    obtain ⟨hnlf, hncr⟩ := ne_lineByte_of_classOf hlf hcr
    rw [exec_byte he hsvc, feedReady_payload hkind hnlf hncr]
  have hplus : exec .feedPLUS s = payloadChar charPlus s := hchar rfl (by decide) (by decide)
  have hhash : exec .feedHASH s = payloadChar charHash s := hchar rfl (by decide) (by decide)
  have hsep (hb : classOf b = .sep) : exec (.feedSEP b) s = payloadChar b s := hchar rfl (by simp [hb]) (by simp [hb])
  have hhex (hb : classOf b = .hexDigit) : exec (.feedHEXDIGIT b) s = payloadChar b s :=
    hchar rfl (by simp [hb]) (by simp [hb])
  have hother (hb : classOf b = .other) : exec (.feedOTHER b) s = payloadChar b s :=
    hchar rfl (by simp [hb]) (by simp [hb])
  refine ⟨fun hcrc => ⟨fun hb hlen => ?sepSkipped, fun hb hlen => ?sepInPair, fun hlayer hlen => ?hashCloses,
    fun hlayer hlen => ?hashInPair, fun hlayer => ?hashNoLayer, ?plus, fun hb => ?other⟩,
    fun hcrc => ⟨fun d n hd hroom hn => ?digit, fun hb hfull => ?fifthDigit, ?suffixPlus, ?suffixHash,
      fun hb => ?suffixSep, fun hb => ?suffixOther⟩⟩
  case sepSkipped => rw [hsep hb, payloadChar_sep hcrc hb, separator, if_neg (not_not.mpr hlen)]
  case sepInPair => rw [hsep hb, payloadChar_sep hcrc hb, separator, if_pos hlen]
  case hashCloses => rw [hhash, payloadChar_hash hcrc, hashMark, if_pos hlayer, if_pos hlen]
  case hashInPair => rw [hhash, payloadChar_hash hcrc, hashMark, if_pos hlayer, if_neg hlen]
  case hashNoLayer => rw [hhash, payloadChar_hash hcrc, hashMark, if_neg (by simp [hlayer])]
  case plus => rw [hplus, payloadChar_illegal hcrc (.inl rfl)]
  case other => rw [hother hb, payloadChar_illegal hcrc (.inr hb)]
  case digit =>
    rw [exec_byte rfl hsvc, feedReady_crc_hex hd hkind hcrc hroom, succDigits_eq hroom hn, shiftDigit_eq_ofNat]
  case fifthDigit => rw [hhex hb, payloadChar_suffix_full hcrc hb hfull]
  case suffixPlus => rw [hplus, payloadChar_suffix_illegal hcrc (by decide)]
  case suffixHash => rw [hhash, payloadChar_suffix_illegal hcrc (by decide)]
  case suffixSep => rw [hsep hb, payloadChar_suffix_illegal hcrc (by simp [hb])]
  case suffixOther => rw [hother hb, payloadChar_suffix_illegal hcrc (by simp [hb])]

end Sys2Proof.Machine
end

section
/-! SUPPORT. The end of a callback (R211, R212, R236, R259): the padding of a response granted and refused, then CBDONE by
the window it closes. -/

namespace Sys2Proof.Machine

/-! ### The padding (R211, R212) -/

section
variable {s : State} {a b : Byte}

/-- One granted round of the padding (R211, R259). -/
theorem padOutbound_round (n : Nat) (hshort : s.outbound.length < s.svcLen.toNat)
    (hroom : s.outbound.length < s.cfg.maxLen - 1) (hg : GrantsFor 1 s) :
    padOutbound (n + 1) s = padOutbound n { s with
      outbound := s.outbound.pushed s.cfg Config.filler
      allocReqs := s.allocReqs ++ appendRequest .outbound s.cfg s.outbound
      grants := appendGrants s.outbound s } := by
  rw [padOutbound, if_pos ⟨hshort, hroom⟩, bufWrite_granted _ hg]
  rfl

/-- The padding ends where nothing is missing (R259). -/
theorem padOutbound_done (n : Nat) (hfull : min s.svcLen.toNat (s.cfg.maxLen - 1) ≤ s.outbound.length) :
    padOutbound n s = s := by
  cases n with
  | zero => rfl
  | succ n => rw [padOutbound, if_neg (by omega)]

/-- A granted padding adds the bytes missing to the length asked for, or to what a line can hold (R211, R259). -/
theorem padOutbound_bytes {missing n : Nat}
    (hmissing : min s.svcLen.toNat (s.cfg.maxLen - 1) - s.outbound.length = missing) (hn : missing ≤ n)
    (hg : GrantsFor missing s) :
    (padOutbound n s).outbound.bytes = s.outbound.bytes ++ List.replicate missing Config.filler := by
  induction missing generalizing n s with
  | zero => rw [padOutbound_done n (by omega), List.replicate_zero, List.append_nil]
  | succ missing ih =>
    obtain ⟨n, rfl⟩ := Nat.exists_eq_add_one_of_ne_zero (Nat.ne_zero_of_lt hn)
    have hnext : min s.svcLen.toNat (s.cfg.maxLen - 1) - (s.outbound.length + 1) = missing := by omega
    rw [padOutbound_round n (by omega) (by omega) (grantsFor_mono hg (Nat.le_add_left 1 missing)),
      ih (by exact hnext) (Nat.le_of_succ_le_succ hn) (by exact grantsFor_appendGrants s.outbound hg), bytes_pushed,
      List.append_assoc, List.singleton_append, List.replicate_succ]

/-- A padding whose first growth is refused loses the bytes written and ends there (R212, R259). -/
theorem padOutbound_refused {n : Nat} {gs : List Bool} (hcap : s.outbound.capacity = s.outbound.length)
    (hshort : s.outbound.length < s.svcLen.toNat) (hroom : s.outbound.length < s.cfg.maxLen - 1)
    (hfail : s.cfg.allocCanFail = true) (hgs : s.grants = false :: gs) :
    padOutbound (n + 1) s = { s with
      outbound := Buffer.cleared 0
      allocReqs := s.allocReqs ++ [⟨.outbound, growCap s.cfg (s.outbound.length + 1)⟩] ++ releaseRequest .outbound s
      grants := gs } := by
  have hgrow : (s.buf .outbound).capacity < (s.buf .outbound).length + 1 := Nat.lt_succ_of_le hcap.le
  rw [padOutbound, if_pos ⟨hshort, hroom⟩, bufWrite_refusal_listed _ hgrow hfail hgs]
  rfl

/-! ### CBDONE by the window it closes (R259) -/

/-- A released buffer has nothing to trim (R135, R136). -/
theorem clearedCap_released (cfg : Config) : clearedCap cfg (Buffer.cleared 0) = 0 := if_neg (Nat.not_lt_zero _)

theorem clearRequest_released (s : State) : clearRequest .outbound { s with outbound := Buffer.cleared 0 } = [] :=
  if_neg (not_not.mpr (clearedCap_released s.cfg))

/-- CBDONE outside a callback (R259). -/
theorem exec_cbdone_outside (hsvc : s.svc = .none) : exec (.cmdCbdone a b) s = .next (s.respond .noCallback 0) := by
  show Host.Outcome.next _ = _
  rw [hsvc]

/-- CBDONE at the end of a Receive window (R259). -/
theorem exec_cbdone_receive (hsvc : s.svc = .receive) :
    exec (.cmdCbdone a b) s = .next ((leaveCallback (bufClear .inbound s)).respond .ok 0) := by
  show Host.Outcome.next _ = _
  rw [hsvc]

/-- CBDONE at the end of a Request window (R259). -/
theorem exec_cbdone_request (hsvc : s.svc = .request) :
    exec (.cmdCbdone a b) s = .next ((leaveCallback (finishRequest s)).respond .ok 0) := by
  show Host.Outcome.next _ = _
  rw [hsvc]

/-- The service of a request sends what the padding left and clears both buffers (R236, R259). -/
theorem finishRequest_eq {buf : Buffer} {reqs : List AllocReq} {gs : List Bool} {n : Nat}
    (hpad : padOutbound s.svcLen.toNat s = { s with outbound := buf, allocReqs := reqs, grants := gs, draws := n }) :
    finishRequest s = { s with
      tx := s.tx ++ sentLine .i2ca (s.ownAddress.code :: buf.bytes) (lineSum s.cfg (s.ownAddress.code :: buf.bytes))
      outbound := Buffer.cleared (clearedCap s.cfg buf)
      inbound := Buffer.cleared (clearedCap s.cfg s.inbound)
      allocReqs := reqs ++ clearRequest .outbound { s with outbound := buf } ++ clearRequest .inbound s
      grants := gs
      draws := n } := by
  rw [finishRequest, hpad]
  simp only [emitFrame_eq, frameItems_eq, bufClear_outbound_eq, bufClear_inbound_eq]
  rfl

end

/-- Settles O54: no window, a Receive window, a Request window with its padding granted, and refused. -/
theorem callbackDone : Obligations.CallbackDone := by
  intro a b s
  refine ⟨fun hsvc => ?outside, fun hsvc => ?receive, fun hsvc _ _ hg => ?request,
    fun gs hsvc hcap hshort hroom hfail hgs => ?refused⟩
  case outside => exact exec_cbdone_outside hsvc
  case receive =>
    rw [exec_cbdone_receive hsvc, bufClear_eq]
    rfl
  case request =>
    obtain ⟨buf, reqs, gs, n, hpad⟩ := padOutbound_frame s.svcLen.toNat s
    have hrounds : min s.svcLen.toNat (s.cfg.maxLen - 1) - s.outbound.length ≤ s.svcLen.toNat := by omega
    have hbytes := padOutbound_bytes rfl hrounds (grantsFor_mono hg hrounds)
    rw [hpad] at hbytes
    rw [exec_cbdone_request hsvc, finishRequest_eq hpad, hbytes]
    exact ⟨_, rfl, rfl, rfl, rfl⟩
  case refused =>
    obtain ⟨n, hn⟩ := Nat.exists_eq_add_one_of_ne_zero (Nat.ne_zero_of_lt hshort)
    have hpad := padOutbound_refused (n := n) hcap hshort hroom hfail hgs
    rw [← hn] at hpad
    rw [exec_cbdone_request hsvc, finishRequest_eq hpad, clearRequest_released, clearedCap_released, List.append_nil]
    rfl

end Sys2Proof.Machine
end

section
/-! SUPPORT. The line feed by the line it ends (R200 to R208): what its checks say, which branch they select, and the tail
that every branch has in common. -/

namespace Sys2Proof.Machine

/-! ### The checks and their branches -/

section
variable {s : State}

/-- The line feed at a ready port runs the branch selected, then the common tail (R200). -/
theorem exec_feedLF {t : State} (hsvc : s.svc = .none) (hend : endBranch s = t) :
    exec .feedLF s = .next { t with inCrc := false, crcDigits := 0 } := by
  rw [← hend]
  exact feed_ready hsvc

/-- The checks of a complete frame pass (R203). -/
theorem frameCheck_of_frameOk (h : FrameOk s) : frameCheck s = none := by
  obtain ⟨hlen, hbytes, hsuffix⟩ := h
  rw [frameCheck, if_neg (not_not.mpr hlen), if_neg hbytes]
  split
  next hlayer =>
    obtain ⟨hcrc, hdigits, hsum⟩ := hsuffix hlayer
    rw [hcrc, if_neg (by simp), if_neg (not_not.mpr hdigits), if_neg (not_not.mpr hsum)]
  · rfl

/-- A failed frame check drops the line, whichever keyword opened it (R203, R208). -/
theorem endBranch_of_frameCheck {r : Reason} (hkind : s.commandKind.isPayload = true) (h : frameCheck s = some r) :
    endBranch s = rejectLine r s := by
  unfold endBranch
  split
  next hk => rw [hk] at hkind; cases hkind
  next hk => rw [hk] at hkind; cases hkind
  all_goals simp [h]

/-- A request whose frame passes is dropped by a failed request check (R205, R206, R208). -/
theorem endBranch_of_requestCheck {r : Reason} (hkind : s.commandKind = .masterRequest ∨ s.commandKind = .sendDiscarded)
    (hframe : frameCheck s = none) (h : requestCheck s = some r) : endBranch s = rejectLine r s := by
  rcases hkind with hk | hk
  all_goals rw [endBranch, hk, hframe, h]; rfl

/-- The tail of the line's end finds nothing left to do behind a Discard (R163, R200). -/
theorem exec_feedLF_rejects {r : Reason} (hsvc : s.svc = .none) (hend : endBranch s = rejectLine r s) :
    exec .feedLF s = .next (rejected r s) := by
  rw [exec_feedLF hsvc hend, rejectLine, rejected, discard_eq]

/-- The checks of a request pass (R205). -/
theorem requestCheck_eq_none (hbytes : s.frameBytes = 2#16) (hcount : s.svcLen ≠ 0#8)
    (hidle : s.commandKind = .masterRequest → s.outboundState = .idle) : requestCheck s = none := by
  rw [requestCheck, if_neg (not_not.mpr hbytes), if_neg hcount, if_neg fun h => h.2 (hidle h.1)]

end

/-! ### The statements on the end of a line -/

/-- Settles O24: the line feed outside a frame. -/
theorem lineEndOutsideFrame : Obligations.LineEndOutsideFrame := by
  intro s hsvc hcrc hdigits
  have htail : { s with inCrc := false, crcDigits := 0 } = s := by rw [← hcrc, ← hdigits]
  refine ⟨fun hkind hlen => ?empty, fun hkind hlen => ?truncated, fun hkind => ?skipped⟩
  case empty =>
    have hend : endBranch s = s := by rw [endBranch, hkind]; exact if_neg (not_not.mpr hlen)
    rw [exec_feedLF hsvc hend, htail]
  case truncated =>
    have hend : endBranch s = rejectLine .truncatedKeyword s := by rw [endBranch, hkind]; exact if_pos hlen
    exact exec_feedLF_rejects hsvc hend
  case skipped =>
    have hend : endBranch s = { s with commandKind := .none } := by rw [endBranch, hkind]; rfl
    rw [exec_feedLF hsvc hend]
    exact congrArg (fun u : State => Host.Outcome.next { u with commandKind := .none }) htail

/-- Settles O25: the checks of the frame, then those of a request. -/
theorem frameRejected : Obligations.FrameRejected := by
  intro s hsvc hkind
  have hframe {r : Reason} (h : frameCheck s = some r) : exec .feedLF s = .next (rejected r s) :=
    exec_feedLF_rejects hsvc (endBranch_of_frameCheck hkind h)
  refine ⟨fun hlen => hframe (if_pos hlen), fun hlen hbytes => hframe ?noBytes,
    fun hlen hbytes hlayer => ?suffix, fun hok hk => ?request⟩
  case noBytes => rw [frameCheck, if_neg (not_not.mpr hlen), if_pos hbytes]
  case suffix =>
    rw [frameCheck, if_neg (not_not.mpr hlen), if_neg hbytes, if_pos hlayer] at hframe
    refine ⟨fun hcrc => hframe ?missing, fun hcrc hdigits => hframe ?incomplete,
      fun hcrc hdigits hsum => hframe ?mismatch⟩
    case missing => rw [hcrc]; rfl
    case incomplete => rw [hcrc, if_neg (by simp), if_pos hdigits]
    case mismatch => rw [hcrc, if_neg (by simp), if_neg (not_not.mpr hdigits), if_pos hsum]
  case request =>
    have hrequest {r : Reason} (h : requestCheck s = some r) : exec .feedLF s = .next (rejected r s) :=
      exec_feedLF_rejects hsvc (endBranch_of_requestCheck hk (frameCheck_of_frameOk hok) h)
    refine ⟨fun hbytes => hrequest (if_pos hbytes), fun hbytes hcount => hrequest ?zeroCount,
      fun hbytes hcount hmaster hbusy => hrequest ?busy⟩
    case zeroCount => rw [requestCheck, if_neg (not_not.mpr hbytes), if_pos hcount]
    case busy => rw [requestCheck, if_neg (not_not.mpr hbytes), if_neg hcount, if_pos ⟨hmaster, hbusy⟩]

/-- Settles O26: the frame's checks pass, and a request's own. -/
theorem callbackOpened : Obligations.CallbackOpened := by
  intro s hsvc hok
  have hframe := frameCheck_of_frameOk hok
  refine ⟨fun hkind => ?transmit, fun hkind hbytes hcount hidle => ?request⟩
  case transmit =>
    have hend : endBranch s = acceptTransmit s := by rw [endBranch, hkind, hframe]
    exact exec_feedLF hsvc hend
  case request =>
    have hrequest := requestCheck_eq_none hbytes hcount fun _ => hidle
    have hend : endBranch s = acceptRequest s := by rw [endBranch, hkind, hframe, hrequest]; rfl
    exact exec_feedLF hsvc hend

/-- Settles O27: the two kinds of frame that only a wait lets through. -/
theorem lineEndInWait : Obligations.LineEndInWait := by
  intro s hsvc hok
  have hframe := frameCheck_of_frameOk hok
  refine ⟨fun hkind hbytes hcount => ?nacked, fun hkind => ?answered⟩
  case nacked =>
    have hrequest := requestCheck_eq_none hbytes hcount fun hk => absurd (hkind.symm.trans hk) nofun
    have hend : endBranch s = refuseRequest s := by rw [endBranch, hkind, hframe, hrequest]; rfl
    rw [exec_feedLF hsvc hend, refuseRequest, emitFrame_eq, frameItems_eq]
  case answered =>
    have hend : endBranch s = acceptResponse s := by rw [endBranch, hkind, hframe]
    exact exec_feedLF hsvc hend

end Sys2Proof.Machine
end

section
/-! SUPPORT. The host commands one by one (R250 to R265): the checks in the rule's order, what a command that passes them
leaves, and how many responses each operation returns. -/

namespace Sys2Proof.Machine

section
variable {s : State} {a b n : Byte} {st : Status}

/-! ### The checks (R251 to R258) -/

theorem begun_iff (s : State) : begun s = true ↔ s.ownAddress ≠ .uninitialized := by
  simp [begun]

theorem begun_eq_false (h : s.ownAddress = .uninitialized) : begun s = false := by
  rw [begun, h]
  rfl

theorem transactionBusy_iff (s : State) :
    transactionBusy s = true ↔ s.outboundState ≠ .idle ∨ s.waitActive = true ∨ s.svc ≠ .none := by
  simp [transactionBusy, or_assoc]

theorem transactionBusy_eq_false (hidle : s.outboundState = .idle) (hwait : s.waitActive = false)
    (hsvc : s.svc = .none) : transactionBusy s = false := by
  rw [transactionBusy, hidle, hwait, hsvc]
  rfl

/-- REQFROM needs the transaction free and no frame in `inbound` (R258). -/
theorem requestBusy_iff (s : State) :
    (transactionBusy s || s.inboundActive) = true ↔
      s.outboundState ≠ .idle ∨ s.waitActive = true ∨ s.svc ≠ .none ∨ s.inboundActive = true := by
  rw [Bool.or_eq_true, transactionBusy_iff, or_assoc, or_assoc]

/-- ENDTX sends to a bus address other than the block's own (R257). -/
theorem targetStatus_eq_ok_iff (s : State) :
    targetStatus s = .ok ↔ s.txAddr.toNat ≤ 0x7F ∧ s.txAddr ≠ s.ownAddress.code := by
  unfold targetStatus
  split
  next hrange => exact iff_of_false nofun fun h => absurd h.1 (Nat.not_le.mpr hrange)
  next hrange =>
    split
    next hown => exact iff_of_false nofun fun h => h.2 hown
    next hother => exact iff_of_true rfl ⟨Nat.le_of_not_lt hrange, hother⟩

/-- A target is sent to, or out of range, or the block's own (R257). -/
theorem targetStatus_cases (s : State) :
    targetStatus s = .ok ∨ targetStatus s = .invalidAddress ∨ targetStatus s = .ownAddress := by
  unfold targetStatus
  split
  · exact .inr (.inl rfl)
  · split
    · exact .inr (.inr rfl)
    · exact .inl rfl

/-! ### ENDTX and REQFROM by the outcome of their checks (R257, R258) -/

/-- ENDTX in a transmission closes it, whether or not it is sent (R257). -/
theorem exec_endtx (hlocked : s.outboundState = .locked) :
    exec (.cmdEndtx a b) s = .next ((closeTransmission
      (if targetStatus s = .ok then emitFrame .i2ct s.txAddr s.outbound.bytes s else s)).respond (targetStatus s) 0) := by
  show Host.Outcome.next _ = _
  rw [if_neg (not_not.mpr hlocked)]

/-- The transmission is over, sent or not (R257). -/
theorem closeTransmission_eq (s : State) :
    closeTransmission s = { s with
      outbound := Buffer.cleared (clearedCap s.cfg s.outbound)
      allocReqs := s.allocReqs ++ clearRequest .outbound s
      outboundState := .idle } := by
  rw [closeTransmission, bufClear_eq]
  rfl

/-- REQFROM that a check refuses answers that check's status and nothing else (R258). -/
theorem exec_reqfrom_refused (h : requestRefusal a n s = some st) :
    exec (.cmdReqfrom a n) s = .next (s.respond st 0) := by
  show Host.Outcome.next _ = _
  rw [h]

end

/-! ### One command at a time (R251 to R263) -/

/-- Settles O44: SETTO's operand as a number. -/
theorem plainCommands : Obligations.PlainCommands := by
  intro op a b s
  have hoperand : operandAB a b = BitVec.ofNat 16 (256 * a.toNat + b.toNat) :=
    half_eq_ofNat (by rw [operandAB_toNat, Nat.mul_comm])
  rw [← hoperand]
  exact ⟨rfl, rfl, rfl⟩

/-- Settles O45: the checks of BEGIN and BEGINM in their order. -/
theorem sessionOpened : Obligations.SessionOpened := by
  intro a b s
  refine ⟨fun hopen => ?again, fun hclosed hrange => ?badAddress, fun hclosed hrange => ?opened,
    fun hslave => ?slave, fun hmaster hopen => ?masterAgain, fun hmaster hclosed => ?masterOpened⟩
  all_goals show Host.Outcome.next _ = _
  case again =>
    rw [if_pos hopen]
    rfl
  case badAddress =>
    rw [if_neg (not_not.mpr hclosed), if_pos hrange]
    rfl
  case opened =>
    rw [if_neg (not_not.mpr hclosed), if_neg (Nat.not_lt.mpr hrange), BitVec.ofNat_toNat]
    rfl
  case slave =>
    rw [hslave]
    rfl
  case masterAgain =>
    rw [hmaster, if_neg (by simp), if_pos hopen]
    rfl
  case masterOpened =>
    rw [hmaster, if_neg (by simp), if_neg (not_not.mpr hclosed)]
    rfl

/-- Settles O47: the two checks of BEGINTX in their order. -/
theorem transmissionOpened : Obligations.TransmissionOpened := by
  intro a b s
  refine ⟨fun hclosed => ?closed, fun hopen hbusy => ?busy, fun hopen hidle hwait hsvc => ?opened⟩
  all_goals show Host.Outcome.next _ = _
  case closed =>
    rw [begun_eq_false hclosed]
    rfl
  case busy =>
    rw [(begun_iff s).mpr hopen, (transactionBusy_iff s).mpr hbusy]
    rfl
  case opened =>
    rw [(begun_iff s).mpr hopen, transactionBusy_eq_false hidle hwait hsvc]
    rfl

/-- Settles O49: no transmission open, then the close with and without the line. -/
theorem transmissionEnded : Obligations.TransmissionEnded := by
  intro a b s
  refine ⟨fun hfree => ?free, fun hlocked => ?closed⟩
  case free =>
    show Host.Outcome.next _ = _
    rw [if_pos hfree]
    rfl
  case closed =>
    rw [exec_endtx hlocked, closeTransmission_eq]
    by_cases hok : targetStatus s = .ok
    · rw [if_pos hok, if_pos ((targetStatus_eq_ok_iff s).mp hok), emitFrame_eq, frameItems_eq]
      rfl
    · rw [if_neg hok, if_neg (mt (targetStatus_eq_ok_iff s).mpr hok), List.append_nil]
      rfl

/-- Settles O50: each refusing check with those before it passed. -/
theorem requestRefused : Obligations.RequestRefused := by
  intro a n s answer busy
  have hanswer {st : Status} (h : requestRefusal a n s = some st) : answer st := exec_reqfrom_refused h
  refine ⟨fun hslave => hanswer ?slave, fun hmaster hclosed => hanswer ?closed, fun hmaster hopen => ?session⟩
  case slave => rw [requestRefusal, hslave]; rfl
  case closed => rw [requestRefusal, hmaster, begun_eq_false hclosed]; rfl
  case session =>
    have hfree (h : ¬busy) : ¬(transactionBusy s || s.inboundActive) = true := mt (requestBusy_iff s).mp h
    rw [requestRefusal, hmaster, (begun_iff s).mpr hopen, if_neg (by simp), if_neg (by simp)] at hanswer
    refine ⟨fun hbusy => hanswer ?busy, fun hidle hcount => hanswer ?zeroCount,
      fun hidle hcount hrange => hanswer ?badAddress, fun hidle hcount hrange hown => hanswer ?ownAddress⟩
    case busy => exact if_pos ((requestBusy_iff s).mpr hbusy)
    case zeroCount => rw [if_neg (hfree hidle), if_pos hcount]
    case badAddress => rw [if_neg (hfree hidle), if_neg hcount, if_pos hrange]
    case ownAddress =>
      rw [if_neg (hfree hidle), if_neg hcount, if_neg (Nat.not_lt.mpr hrange), if_pos hown]

/-- Settles O52: a byte at the cursor, none left, and the count. -/
theorem readPeekAvail : Obligations.ReadPeekAvail := by
  intro a b s
  refine ⟨fun v hread => ?byte, fun hend => ?none, rfl⟩
  case byte =>
    have hpeek : bufPeek .inbound s = some v := hread
    rw [← setWidth_eq_ofNat]
    refine ⟨?_, ?_⟩
    all_goals
      show Host.Outcome.next _ = _
      rw [hpeek]
      rfl
  case none =>
    have hpeek : bufPeek .inbound s = none := if_neg (Nat.not_lt.mpr hend)
    refine ⟨?_, ?_⟩
    all_goals
      show Host.Outcome.next _ = _
      rw [hpeek]
      rfl

/-! ### What returns no response (R250) -/

section
variable {s t : State} {b : Byte}

theorem bufWrite_responses (id : BufId) (v : Byte) (s : State) : (bufWrite id v s).2.responses = s.responses := by
  obtain ⟨buf, reqs, gs, n, hw⟩ := bufWrite_frame id v s
  rw [hw]
  exact State.setBuf_responses ..

theorem bufClear_responses (id : BufId) (s : State) : (bufClear id s).responses = s.responses := by
  rw [bufClear_eq]
  exact State.setBuf_responses ..

theorem Parsed.responses (h : Parsed s t) : t.responses = s.responses := by
  induction h with
  | registers s => rfl
  | write v s => exact bufWrite_responses .inbound v s
  | clear s => exact bufClear_responses .inbound s
  | diagnose r s => exact State.diagnose_responses ..
  | trans _ _ ih ih' => exact ih'.trans ih

theorem endBranch_responses (s : State) : (endBranch s).responses = s.responses := by
  rcases endBranch_cases s with hmoves | ⟨kind, e, hwindow⟩ | hnack
  · exact hmoves.responses
  · rw [hwindow, enterCallback_eq]
  · rw [hnack]
    rfl

theorem feedReady_responses (hrun : feedReady b s = .next t) : t.responses = s.responses := by
  by_cases hb : b = charLF
  · rw [feedReady, if_pos hb] at hrun
    cases hrun
    exact endBranch_responses s
  · exact (parsed_feedReady hb hrun).responses

theorem feedText_responses {bs : List Byte} (hrun : feedText bs s = .next t) : t.responses = s.responses := by
  induction bs generalizing s with
  | nil => cases hrun; rfl
  | cons b bs ih =>
    rcases feedText_cons_next hrun with ⟨-, u, hu, hrest⟩ | rfl
    · exact (ih hrest).trans (feedReady_responses hu)
    · rfl

theorem reqComplete_responses (hrun : exec .reqComplete s = .next t) : t.responses = s.responses := by
  rcases reqComplete_next hrun with rfl | ⟨-, ⟨-, -, rfl⟩ | ⟨reqs, rfl⟩⟩
  · rfl
  · rw [endWait_eq]
  · rw [endWait_eq, abortResponseLine_eq]

/-- Every operation is at the RX port, a host command, the time base's or the engine's (R2). -/
theorem operation_kinds (i : Instr) :
    i.isReceive = true ∨ i.isCommand = true ∨ i = .tick ∨ i = .reqComplete := by
  cases i <;> simp [Instr.isReceive, Instr.isCommand]

/-- Nothing but a host command returns a response (R250). -/
theorem exec_responses {i : Instr} (h : i.isCommand = false) (hrun : exec i s = .next t) :
    t.responses = s.responses := by
  rcases operation_kinds i with hreceive | hcommand | rfl | rfl
  · obtain ⟨text, hfeed⟩ := exec_of_isReceive hreceive
    exact feedText_responses ((hfeed s).symm.trans hrun)
  · exact absurd (hcommand.symm.trans h) nofun
  · cases hrun
    split <;> rfl
  · exact reqComplete_responses hrun

end

/-! ### One response from every command (R250) -/

/-- What R250 asks of the command `i` that leads from `s` to `t`: one response more, and with a status other than OK nothing
changed, but for the two exceptions it names. -/
def OneAnswer (i : Instr) (s t : State) : Prop :=
  ∃ r, t.responses = s.responses ++ [r] ∧
    (r.status ≠ .ok →
      t = s.respond r.status r.value ∨
        (∃ a b, i = .cmdEndtx a b) ∧ (r.status = .invalidAddress ∨ r.status = .ownAddress) ∨
        (∃ a b, i = .cmdWrite a b ∨ i = .cmdReqfrom a b) ∧ r.status = .allocFail)

section
variable {i : Instr} {s u : State} {a b : Byte}

/-- A command that only answers. -/
theorem oneAnswer_respond (i : Instr) (s : State) (st : Status) (v : Half) : OneAnswer i s (s.respond st v) :=
  ⟨⟨st, v⟩, rfl, fun _ => .inl rfl⟩

/-- A command that answers OK, whatever else it did. -/
theorem oneAnswer_ok {v : Half} (h : u.responses = s.responses) : OneAnswer i s (u.respond .ok v) :=
  ⟨⟨.ok, v⟩, congrArg (· ++ [_]) h, fun hst => absurd rfl hst⟩

/-- A command that two checks can refuse. -/
theorem oneAnswer_checked {p q : Prop} [Decidable p] [Decidable q] {st st' : Status} {v : Half}
    (h : u.responses = s.responses) :
    OneAnswer i s (if p then s.respond st 0 else if q then s.respond st' 0 else u.respond .ok v) := by
  split
  · exact oneAnswer_respond ..
  · split
    · exact oneAnswer_respond ..
    · exact oneAnswer_ok h

/-- A refused growth in WRITE or REQFROM may cost the bytes in the buffer (R132, R250). -/
theorem oneAnswer_allocFail {v : Half} (hi : i = .cmdWrite a b ∨ i = .cmdReqfrom a b)
    (h : u.responses = s.responses) : OneAnswer i s (u.respond .allocFail v) :=
  ⟨⟨.allocFail, v⟩, congrArg (· ++ [_]) h, fun _ => .inr (.inr ⟨⟨a, b, hi⟩, rfl⟩)⟩

theorem finishRequest_responses (s : State) : (finishRequest s).responses = s.responses := by
  obtain ⟨buf, reqs, gs, n, hpad⟩ := padOutbound_frame s.svcLen.toNat s
  rw [finishRequest_eq hpad]

theorem cmdWrite_oneAnswer (a b : Byte) (s : State) :
    ∃ t, exec (.cmdWrite a b) s = .next t ∧ OneAnswer (.cmdWrite a b) s t := by
  obtain ⟨hclosed, hfull, -, -⟩ := byteWritten a b s
  by_cases hopen : s.outboundState = .locked ∨ s.svc = .request
  · by_cases hroom : s.outbound.length < s.cfg.maxLen - 1
    · have hkept := bufWrite_responses .outbound a s
      rcases hw : bufWrite .outbound a s with ⟨ok, u⟩
      rw [hw] at hkept
      refine ⟨_, exec_write hopen hroom hw, ?_⟩
      cases ok
      · exact oneAnswer_allocFail (.inl rfl) hkept
      · exact oneAnswer_ok hkept
    · exact ⟨_, hfull hopen (Nat.le_of_not_lt hroom), oneAnswer_respond ..⟩
  · obtain ⟨hlocked, hrequest⟩ := not_or.mp hopen
    exact ⟨_, hclosed hlocked hrequest, oneAnswer_respond ..⟩

theorem cmdEndtx_oneAnswer (a b : Byte) (s : State) :
    ∃ t, exec (.cmdEndtx a b) s = .next t ∧ OneAnswer (.cmdEndtx a b) s t := by
  obtain ⟨hfree, -⟩ := transmissionEnded a b s
  by_cases hlocked : s.outboundState = .locked
  · refine ⟨_, exec_endtx hlocked, ?_⟩
    rw [closeTransmission_eq]
    by_cases hok : targetStatus s = .ok
    · rw [hok]
      exact oneAnswer_ok rfl
    · rw [if_neg hok]
      exact ⟨⟨targetStatus s, 0⟩, rfl, fun _ => .inr (.inl ⟨⟨a, b, rfl⟩, (targetStatus_cases s).resolve_left hok⟩)⟩
  · exact ⟨_, hfree hlocked, oneAnswer_respond ..⟩

theorem cmdReqfrom_oneAnswer (a n : Byte) (s : State) :
    ∃ t, exec (.cmdReqfrom a n) s = .next t ∧ OneAnswer (.cmdReqfrom a n) s t := by
  cases hchecks : requestRefusal a n s with
  | some st => exact ⟨_, exec_reqfrom_refused hchecks, oneAnswer_respond ..⟩
  | none =>
    have hkept : (bufWrite .inbound a (resetInbound { s with outboundState := .fillingWait })).2.responses =
        s.responses := by
      rw [bufWrite_responses, resetInbound_eq]
    rcases hw : bufWrite .inbound a (resetInbound { s with outboundState := .fillingWait }) with ⟨ok, u⟩
    rw [hw] at hkept
    refine ⟨_, exec_reqfrom hchecks hw, ?_⟩
    cases ok
    · exact oneAnswer_allocFail (u := { u with outboundState := .idle }) (.inr rfl) hkept
    · exact oneAnswer_ok (u := startWait a n u) hkept

theorem cmdCbdone_oneAnswer (a b : Byte) (s : State) :
    ∃ t, exec (.cmdCbdone a b) s = .next t ∧ OneAnswer (.cmdCbdone a b) s t := by
  cases hsvc : s.svc with
  | none => exact ⟨_, exec_cbdone_outside hsvc, oneAnswer_respond ..⟩
  | receive => exact ⟨_, exec_cbdone_receive hsvc, oneAnswer_ok (bufClear_responses .inbound s)⟩
  | request => exact ⟨_, exec_cbdone_request hsvc, oneAnswer_ok (finishRequest_responses s)⟩

/-- Every command is taken in every state and answers once (R250). -/
theorem command_oneAnswer (s : State) (h : i.isCommand = true) : ∃ t, exec i s = .next t ∧ OneAnswer i s t := by
  cases i with
  | cmdNop a b => exact ⟨_, rfl, oneAnswer_respond ..⟩
  | cmdReserved op a b => exact ⟨_, rfl, oneAnswer_respond ..⟩
  | cmdSetto a b => exact ⟨_, rfl, oneAnswer_ok rfl⟩
  | cmdAvail a b => exact ⟨_, rfl, oneAnswer_respond ..⟩
  | cmdPeek a b =>
    refine ⟨_, rfl, ?_⟩
    split <;> exact oneAnswer_respond ..
  | cmdRdreg a b =>
    refine ⟨_, rfl, ?_⟩
    split <;> exact oneAnswer_respond ..
  | cmdRead a b =>
    refine ⟨_, rfl, ?_⟩
    split
    · exact oneAnswer_ok rfl
    · exact oneAnswer_respond ..
  | cmdBegin a b => exact ⟨_, rfl, oneAnswer_checked rfl⟩
  | cmdBeginm a b => exact ⟨_, rfl, oneAnswer_checked rfl⟩
  | cmdBegintx a b => exact ⟨_, rfl, oneAnswer_checked rfl⟩
  | cmdEnd a b => exact ⟨_, endAndReset.1 a b s, ⟨.ok, 0⟩, rfl, fun hst => absurd rfl hst⟩
  | cmdWrite a b => exact cmdWrite_oneAnswer a b s
  | cmdEndtx a b => exact cmdEndtx_oneAnswer a b s
  | cmdReqfrom a n => exact cmdReqfrom_oneAnswer a n s
  | cmdCbdone a b => exact cmdCbdone_oneAnswer a b s
  | _ => cases h

end

/-- Settles O37: a command answers once, nothing else answers. -/
theorem oneResponse : Obligations.OneResponse := by
  intro i s
  refine ⟨fun hcommand => ?command, fun hother t hrun => exec_responses hother hrun⟩
  case command =>
    obtain ⟨t, hrun, r, hanswer⟩ := command_oneAnswer s hcommand
    exact ⟨t, r, hrun, hanswer⟩

end Sys2Proof.Machine
end

section
/-! SUPPORT. The wait (R300 to R304): when ReqComplete has something to do, that a complete response is not lost while it
waits to be delivered, and how long a wait that REQFROM begins lasts. -/

namespace Sys2Proof.Machine

section
variable {s t u : State} {i : Instr} {a b n : Byte}

/-! ### ReqComplete, enabled and not (R303, R304) -/

theorem reqCompleteEnabled_iff (s : State) :
    reqCompleteEnabled s = true ↔ s.waitActive = true ∧ (s.outboundState = .filled ∨ s.waitTimer = 0#16) := by
  simp [reqCompleteEnabled]

theorem responseReady_iff (s : State) :
    responseReady s = true ↔ s.outboundState = .filled ∧ s.inbound.read 0 = some s.reqAddr := by
  simp [responseReady]

theorem exec_reqComplete_enabled (hwait : s.waitActive = true) (h : s.outboundState = .filled ∨ s.waitTimer = 0#16) :
    exec .reqComplete s = .next (completeRequest s) := by
  show Host.Outcome.next _ = _
  rw [if_pos ((reqCompleteEnabled_iff s).mpr ⟨hwait, h⟩)]

theorem exec_reqComplete_disabled (h : s.waitActive = false ∨ (s.outboundState ≠ .filled ∧ s.waitTimer ≠ 0#16)) :
    exec .reqComplete s = .next s := by
  have hdisabled : ¬reqCompleteEnabled s = true := by
    rw [reqCompleteEnabled_iff]
    rintro ⟨hwait, hdue⟩
    rcases h with hoff | ⟨hfilled, htimer⟩
    · exact absurd (hwait.symm.trans hoff) nofun
    · exact hdue.elim hfilled htimer
  show Host.Outcome.next _ = _
  rw [if_neg hdisabled]

/-- Settles O57: an enabled ReqComplete with the response ready and without it. -/
theorem requestCompleted : Obligations.RequestCompleted := by
  intro s
  refine ⟨fun hwait hfilled hread => ?delivered, fun hwait hdue hnot => ?timedOut⟩
  case delivered =>
    rw [exec_reqComplete_enabled hwait (.inl hfilled), completeRequest,
      if_pos ((responseReady_iff s).mpr ⟨hfilled, hread⟩), endWait_eq, setWidth_eq_ofNat]
  case timedOut =>
    rw [exec_reqComplete_enabled hwait hdue, completeRequest, if_neg (mt (responseReady_iff s).mp hnot),
      bufClear_eq, abortResponseLine_eq, endWait_eq]
    have hlog : (if s.commandKind = .slaveResponse ∧ s.cfg.diagEnable = true then s.diag ++ [.timeoutAbort] else s.diag) =
        s.diag ++ if s.commandKind = .slaveResponse ∧ s.cfg.diagEnable = true then [.timeoutAbort] else [] := by
      split
      · rfl
      · exact (List.append_nil _).symm
    rw [← hlog]
    rfl

/-! ### A complete response stays where it is until ReqComplete takes it (R23, R303) -/

section
variable (h : s.outboundState = .filled)
include h

theorem filled_discard (r : Reason) : (discard r s).outboundState = .filled := by
  rw [discard_eq]
  simp [awaiting, h]

theorem filled_appendInbound (v : Byte) : (appendInbound v s).outboundState = .filled := by
  unfold appendInbound
  split
  · exact filled_discard h _
  · rcases hw : bufWrite .inbound v s with ⟨ok, u⟩
    cases ok
    · obtain ⟨reqs, gs, n, rfl⟩ := bufWrite_false hw
      exact filled_discard (by exact h) _
    · obtain ⟨reqs, gs, n, rfl⟩ := bufWrite_true hw
      exact h

/-- No address byte is taken for a new frame while a response is complete (R172, R173). -/
theorem filled_transmitByte (v : Byte) : (transmitByte v s).outboundState = .filled := by
  unfold transmitByte
  split_ifs with _ _ hbusy
  · exact filled_discard h _
  · exact filled_discard h _
  · simp [h] at hbusy
  · exact filled_appendInbound h v

theorem filled_requestByte (v : Byte) : (requestByte v s).outboundState = .filled := by
  unfold requestByte
  split_ifs with _ _ _ hbusy
  · exact filled_discard h _
  · exact h
  · exact filled_discard h _
  · simp [h] at hbusy
  · exact filled_appendInbound (by exact h) v
  · exact filled_discard h _

theorem filled_nackedRequestByte (v : Byte) : (nackedRequestByte v s).outboundState = .filled := by
  unfold nackedRequestByte
  split
  · exact h
  · exact filled_discard h _

/-- A second response is refused while the first waits to be delivered (R175). -/
theorem filled_responseByte (v : Byte) : (responseByte v s).outboundState = .filled := by
  unfold responseByte
  split_ifs with _ haddr hdata
  · simp [h] at haddr
  · exact filled_discard h _
  · simp [h] at hdata
  · exact filled_discard h _

theorem filled_payloadByte (v : Byte) : (payloadByte v s).outboundState = .filled := by
  have hcount : (countPayload v s).outboundState = .filled := h
  unfold payloadByte
  split
  · exact filled_transmitByte hcount v
  · exact filled_requestByte hcount v
  · exact filled_nackedRequestByte hcount v
  · exact filled_responseByte hcount v
  · exact hcount
  · exact hcount

theorem filled_crcChar (c : Byte) : (crcChar c s).outboundState = .filled := by
  unfold crcChar
  split
  · split
    · exact h
    · exact filled_discard h _
  · exact filled_discard h _

theorem filled_separator : (separator s).outboundState = .filled := by
  unfold separator
  split
  · exact filled_discard h _
  · exact h

theorem filled_hashMark : (hashMark s).outboundState = .filled := by
  unfold hashMark
  split_ifs
  · exact h
  · exact filled_discard h _
  · exact filled_discard h _

theorem filled_hexChar {d : BitVec 4} (hrun : hexChar b d s = .next t) : t.outboundState = .filled := by
  unfold hexChar at hrun
  split at hrun
  · cases hrun; exact h
  · split at hrun
    · cases hrun; exact filled_payloadByte (s := { s with scratchLen := 0 }) h _
    · cases hrun

theorem filled_payloadChar (hrun : payloadChar b s = .next t) : t.outboundState = .filled := by
  unfold payloadChar at hrun
  split at hrun
  · cases hrun; exact filled_crcChar h b
  · split at hrun
    · exact filled_hexChar h hrun
    · split_ifs at hrun
      · cases hrun; exact filled_separator h
      · cases hrun; exact filled_hashMark h
      · cases hrun; exact filled_discard h _

theorem filled_headerComplete : (headerComplete s).outboundState = .filled := by
  unfold headerComplete
  split
  · exact h
  · exact filled_discard h _

theorem filled_headerChar (hrun : headerChar b s = .next t) : t.outboundState = .filled := by
  unfold headerChar at hrun
  split_ifs at hrun
  · cases hrun; exact filled_discard h _
  · dsimp only at hrun
    split at hrun
    · cases hrun; exact filled_headerComplete (by exact h)
    · cases hrun; exact h

theorem filled_endBranch : (endBranch s).outboundState = .filled := by
  have hreject (r : Reason) : (rejectLine r s).outboundState = .filled := filled_discard h r
  unfold endBranch
  split
  · unfold endOfHeader
    split
    · exact hreject _
    · exact h
  · exact h
  · split
    · exact h
    · exact hreject _
  · split
    · exact h
    · exact hreject _
  · split
    · exact h
    · exact hreject _
  · split
    · rfl
    · exact hreject _

theorem filled_feedReady (hrun : feedReady b s = .next t) : t.outboundState = .filled := by
  unfold feedReady at hrun
  split_ifs at hrun
  · cases hrun; exact filled_endBranch h
  · cases hrun; exact h
  · split at hrun
    · cases hrun; exact h
    · exact filled_headerChar h hrun
    all_goals exact filled_payloadChar h hrun

theorem filled_feedText {bs : List Byte} (hrun : feedText bs s = .next t) : t.outboundState = .filled := by
  induction bs generalizing s with
  | nil => cases hrun; exact h
  | cons b bs ih =>
    rcases feedText_cons_next hrun with ⟨-, u, hu, hrest⟩ | rfl
    · exact ih (filled_feedReady h hu) hrest
    · exact h

end

/-- Nothing but ReqComplete and END takes a complete response away (R23): no byte drops it, and the commands that move
`outboundState` start from Idle or Locked. -/
theorem filled_exec (h : s.outboundState = .filled) (hnotEngine : i ≠ .reqComplete) (hnotEnd : ∀ a b, i ≠ .cmdEnd a b)
    (hrun : exec i s = .next t) : t.outboundState = .filled := by
  by_cases hreceive : i.isReceive = true
  · obtain ⟨text, hfeed⟩ := exec_of_isReceive hreceive
    exact filled_feedText h ((hfeed s).symm.trans hrun)
  obtain ⟨-, -, -, -, -, hmoves, -⟩ := registerWriters i s t hrun
  by_contra hlost
  rcases hmoves (by rwa [h]) with ⟨hin, -⟩ | ⟨hdone, -⟩ |
    ⟨a, b, ⟨-, hidle, -⟩ | ⟨-, hlocked, -⟩ | ⟨-, hidle, -⟩ | ⟨hend, -⟩⟩
  · exact hreceive hin
  · exact hnotEngine hdone
  · exact absurd (h.symm.trans hidle) nofun
  · exact absurd (h.symm.trans hlocked) nofun
  · exact absurd (h.symm.trans hidle) nofun
  · exact hnotEnd a b hend

/-! ### The wait goes on under every other operation (R300, R302, R303) -/

/-- REQFROM is refused during a wait (R27, R258). -/
theorem reqfrom_refused_in_wait (hwait : s.waitActive = true) (hrun : exec (.cmdReqfrom a n) s = .next t) :
    ∃ st, t = s.respond st 0 := by
  rcases cmdReqfrom_next hrun with hrefused | ⟨hpass, -⟩
  · exact hrefused
  · obtain ⟨-, -, -, hfree, -⟩ := free_of_requestRefusal hpass
    exact absurd (hwait.symm.trans hfree) nofun

/-- Only ReqComplete and END end a wait (R300). -/
theorem waitActive_exec (hwait : s.waitActive = true) (hnotEngine : i ≠ .reqComplete) (hnotEnd : ∀ a b, i ≠ .cmdEnd a b)
    (hrun : exec i s = .next t) : t.waitActive = true := by
  obtain ⟨-, -, -, -, -, -, -, -, -, -, -, -, hwrites, -⟩ := registerWriters i s t hrun
  by_contra hover
  rcases hwrites (by rwa [hwait]) with hdone | ⟨a, b, rfl | hend⟩
  · exact hnotEngine hdone
  · obtain ⟨st, rfl⟩ := reqfrom_refused_in_wait hwait hrun
    exact hover hwait
  · exact hnotEnd a b hend

/-- During a wait only Tick and END move the timer (R34, R302). -/
theorem waitTimer_exec (hwait : s.waitActive = true) (htick : i ≠ .tick) (hnotEnd : ∀ a b, i ≠ .cmdEnd a b)
    (hrun : exec i s = .next t) : t.waitTimer = s.waitTimer := by
  obtain ⟨-, -, -, -, -, -, -, -, -, -, -, -, -, hwrites, -⟩ := registerWriters i s t hrun
  by_contra hmoved
  rcases hwrites hmoved with hticked | ⟨a, b, rfl | hend⟩
  · exact htick hticked
  · obtain ⟨st, rfl⟩ := reqfrom_refused_in_wait hwait hrun
    exact hmoved rfl
  · exact hnotEnd a b hend

/-- Tick during a wait, at 0 too (R302). -/
theorem exec_tick_wait (hwait : s.waitActive = true) :
    exec .tick s = .next { s with waitTimer := BitVec.ofNat 16 (s.waitTimer.toNat - 1) } := by
  show Host.Outcome.next _ = _
  by_cases htimer : s.waitTimer = 0#16
  · have hstays : BitVec.ofNat 16 (s.waitTimer.toNat - 1) = s.waitTimer := by rw [htimer]; rfl
    rw [if_neg (fun h => h.2 htimer), hstays]
  · have hdown : s.waitTimer - 1#16 = BitVec.ofNat 16 (s.waitTimer.toNat - 1) := by bv_omega
    rw [if_pos ⟨hwait, htimer⟩, hdown]

/-- Tick outside a wait, and past the deadline (R302). -/
theorem exec_tick_idle (h : s.waitActive = false ∨ s.waitTimer = 0#16) : exec .tick s = .next s := by
  have hstopped : ¬(s.waitActive = true ∧ s.waitTimer ≠ 0#16) := by
    rintro ⟨hwait, htimer⟩
    rcases h with hoff | hzero
    · exact absurd (hwait.symm.trans hoff) nofun
    · exact htimer hzero
  show Host.Outcome.next _ = _
  rw [if_neg hstopped]

/-- Settles O58: what enables ReqComplete stands under every other operation; not enabled, it has nothing to do. -/
theorem completionEnabled : Obligations.CompletionEnabled := by
  refine ⟨fun i s t hwait hdue hnotEngine hnotEnd hrun => ⟨waitActive_exec hwait hnotEngine hnotEnd hrun, ?due⟩,
    fun s h => exec_reqComplete_disabled h⟩
  case due =>
    rcases hdue with hfilled | hzero
    · exact .inl (filled_exec hfilled hnotEngine hnotEnd hrun)
    · by_cases htick : i = .tick
      · subst htick
        cases (exec_tick_idle (.inr hzero)).symm.trans hrun
        exact .inr hzero
      · exact .inr ((waitTimer_exec hwait htick hnotEnd hrun).trans hzero)

/-! ### How long a wait lasts (R34, R302) -/

/-- `k` ticks in a row, each the next turn. -/
theorem run_ticks (k : Nat) (s : State) (hwait : s.waitActive = true) :
    core.run k { s with agenda := List.replicate k .tick ++ s.agenda } =
      .next { s with waitTimer := BitVec.ofNat 16 (s.waitTimer.toNat - k) } := by
  induction k generalizing s with
  | zero => simp [Host.Core.run]
  | succ k ih =>
    have hfirst : step { s with agenda := List.replicate (k + 1) .tick ++ s.agenda } = .next { s with
        agenda := List.replicate k .tick ++ s.agenda
        waitTimer := BitVec.ofNat 16 (s.waitTimer.toNat - 1) } :=
      (step_of_fetch_run (fetch_tick rfl)).trans
        (exec_tick_wait (s := { s with agenda := List.replicate k .tick ++ s.agenda }) hwait)
    have hrest := ih { s with waitTimer := BitVec.ofNat 16 (s.waitTimer.toNat - 1) } hwait
    refine (run_succ k hfirst).trans (hrest.trans ?_)
    have hdown : (BitVec.ofNat 16 (s.waitTimer.toNat - 1)).toNat - k = s.waitTimer.toNat - (k + 1) := by
      have hlt := s.waitTimer.isLt
      rw [BitVec.toNat_ofNat, Nat.mod_eq_of_lt (by omega)]
      omega
    rw [← hdown]

/-- One operation during a wait either ends it with a ReqDone, or leaves it going with the timer one tick lower if that is what
it was (R253, R302, R304). -/
theorem reqDone_or_waits (hwait : s.waitActive = true) (hrun : exec i s = .next t) :
    (∃ st v, t.events = s.events ++ [.reqDone st v]) ∨
      t.waitActive = true ∧ t.waitTimer.toNat = s.waitTimer.toNat - [i].count .tick := by
  by_cases htick : i = .tick
  · subst htick
    cases (exec_tick_wait hwait).symm.trans hrun
    have hlt := s.waitTimer.isLt
    refine .inr ⟨hwait, ?_⟩
    simp only [BitVec.toNat_ofNat, List.count_singleton_self]
    omega
  by_cases hend : ∃ a b, i = .cmdEnd a b
  · obtain ⟨a, b, rfl⟩ := hend
    rw [endAndReset.1] at hrun
    cases hrun
    exact .inl ⟨.aborted, 0, by simp [hwait]⟩
  by_cases hdone : i = .reqComplete
  · subst hdone
    rcases reqComplete_next hrun with rfl | ⟨-, ⟨-, -, rfl⟩ | ⟨reqs, rfl⟩⟩
    · exact .inr ⟨hwait, rfl⟩
    · exact .inl ⟨_, _, rfl⟩
    · exact .inl ⟨_, _, by rw [endWait_eq, abortResponseLine_eq]⟩
  have hnotEnd (a b : Byte) : i ≠ .cmdEnd a b := fun he => hend ⟨a, b, he⟩
  refine .inr ⟨waitActive_exec hwait hdone hnotEnd hrun, ?_⟩
  rw [waitTimer_exec hwait htick hnotEnd hrun, List.count_eq_zero.mpr (by simpa using Ne.symm htick)]
  rfl

/-- The event sequence only grows (R71(c)). -/
theorem execAll_events {ops : List Instr} (hrun : execAll ops s = .next u) : ∃ new, u.events = s.events ++ new := by
  induction ops generalizing s with
  | nil => cases hrun; exact ⟨[], (List.append_nil _).symm⟩
  | cons i ops ih =>
    obtain ⟨t, hfirst, hrest⟩ := execAll_cons_next hrun
    obtain ⟨new, hnew⟩ := ih hrest
    rcases (outputs_exec hfirst).events with hsame | ⟨e, he⟩
    · exact ⟨new, by rw [hnew, hsame]⟩
    · exact ⟨e :: new, by rw [hnew, he, List.append_assoc]; rfl⟩

/-- Until a ReqDone ends it the wait goes on, and its timer has lost the ticks that came (R34, R302). -/
theorem reqDone_or_counted {ops : List Instr} (hwait : s.waitActive = true) (hrun : execAll ops s = .next u) :
    (∃ st v, .reqDone st v ∈ u.events.drop s.events.length) ∨
      u.waitActive = true ∧ u.waitTimer.toNat = s.waitTimer.toNat - ops.count .tick := by
  induction ops generalizing s with
  | nil => cases hrun; exact .inr ⟨hwait, rfl⟩
  | cons i ops ih =>
    obtain ⟨t, hfirst, hrest⟩ := execAll_cons_next hrun
    obtain ⟨new, hnew⟩ := execAll_events hrest
    rcases reqDone_or_waits hwait hfirst with ⟨st, v, hdone⟩ | ⟨hgoes, htimer⟩
    · exact .inl ⟨st, v, by simp [hnew, hdone]⟩
    rcases ih hgoes hrest with ⟨st, v, hmem⟩ | ⟨hstill, hcount⟩
    · obtain ⟨old, hold⟩ := execAll_events (ops := [i]) (s := s) (u := t) (by rw [execAll_cons hfirst]; rfl)
      refine .inl ⟨st, v, ?_⟩
      rw [hnew, List.drop_left] at hmem
      simp [hnew, hold, hmem]
    · refine .inr ⟨hstill, ?_⟩
      have hsplit : (i :: ops).count .tick = [i].count .tick + ops.count .tick :=
        List.count_append (l₁ := [i])
      omega

/-- ReqComplete times a wait out only at a timer of 0: a response that is complete comes from the address asked
(R303, R304). -/
theorem waitTimer_of_timeout (hinv : s.Inv) (hwait : s.waitActive = true) (hrun : exec .reqComplete s = .next t)
    {v : Half} (hevent : t.events = s.events ++ [.reqDone .timeout v]) : s.waitTimer = 0#16 := by
  obtain ⟨-, -, -, -, hresponse, -⟩ := hinv
  by_contra htimer
  by_cases hfilled : s.outboundState = .filled
  · obtain ⟨-, hread⟩ := hresponse (.inr hfilled)
    cases ((requestCompleted s).1 hwait hfilled hread).symm.trans hrun
    simp at hevent
  · cases (exec_reqComplete_disabled (.inr ⟨hfilled, htimer⟩)).symm.trans hrun
    simp at hevent

theorem execAll_inv {ops : List Instr} (h : s.Inv) (hrun : execAll ops s = .next u) : u.Inv := by
  induction ops generalizing s with
  | nil => cases hrun; exact h
  | cons i ops ih =>
    obtain ⟨t, hfirst, hrest⟩ := execAll_cons_next hrun
    exact ih (exec_inv h hfirst) hrest

theorem requestRefusal_ne_ok (a n : Byte) (s : State) : requestRefusal a n s ≠ some .ok := by
  unfold requestRefusal
  split_ifs <;> nofun

theorem bufWrite_timeout (id : BufId) (v : Byte) (s : State) : (bufWrite id v s).2.timeout = s.timeout := by
  obtain ⟨buf, reqs, gs, m, hw⟩ := bufWrite_frame id v s
  rw [hw]
  exact State.setBuf_timeout ..

/-- REQFROM that answers OK has begun a wait of `TIMEOUT` ticks (R34, R258). -/
theorem reqfrom_accepted (hrun : exec (.cmdReqfrom a n) s = .next t)
    (hok : t.responses = s.responses ++ [⟨.ok, 0#16⟩]) : t.waitActive = true ∧ t.waitTimer = s.timeout := by
  cases hchecks : requestRefusal a n s with
  | some st =>
    cases (exec_reqfrom_refused hchecks).symm.trans hrun
    have hst : st = .ok := by simpa using hok
    exact absurd (hst ▸ hchecks) (requestRefusal_ne_ok a n s)
  | none =>
    have htimeout : (bufWrite .inbound a (resetInbound { s with outboundState := .fillingWait })).2.timeout =
        s.timeout := by
      rw [bufWrite_timeout, resetInbound_eq]
    rcases hw : bufWrite .inbound a (resetInbound { s with outboundState := .fillingWait }) with ⟨ok, u⟩
    rw [hw] at htimeout
    cases (exec_reqfrom hchecks hw).symm.trans hrun
    cases ok
    · simp at hok
    · exact ⟨rfl, htimeout⟩

/-- Settles O56: one tick, ticks in a row, and the wait that REQFROM begins. -/
theorem waitCounted : Obligations.WaitCounted := by
  refine ⟨fun s => ⟨fun hwait _ => exec_tick_wait hwait, exec_tick_idle⟩, run_ticks,
    fun a n s t hrun hok => ?_⟩
  obtain ⟨hwait, htimer⟩ := reqfrom_accepted hrun hok
  refine ⟨hwait, htimer, fun ops u hinv hops hnone => ?_⟩
  rcases reqDone_or_counted hwait hops with ⟨st, v, hdone⟩ | ⟨hstill, hcount⟩
  · exact absurd hdone (hnone st v)
  rw [htimer] at hcount
  refine ⟨hstill, hcount, fun w v hcomplete hevent => ?_⟩
  have hzero := waitTimer_of_timeout (execAll_inv (exec_inv hinv hrun) hops) hstill hcomplete hevent
  rw [hzero] at hcount
  exact Nat.le_of_sub_eq_zero hcount.symm

end

end Sys2Proof.Machine
end

section
/-! SUPPORT. A line whose suffix is missing or wrong (R203, R320, R325): what an examined payload byte leaves of the checksum
and of an awaited response, and so what stands at the line feed; the reference values of the checksum (R326). -/

namespace Sys2Proof.Machine

/-! ### The reference values (R326) -/

/-- The sum under the default function is its bitwise update over the payload, from the seed (R321, R322). -/
theorem frameSum_of_default {cfg : Config} (h : cfg.crcFunction = .reflectedA001) (payload : List Byte) :
    frameSum cfg payload = payload.foldl crcUpdateDefault Config.crcSeed := by
  have hupdate : crcUpdate cfg = crcUpdateDefault := by
    funext acc b
    rw [crcUpdate, h]
  rw [frameSum, hupdate]

/-- The default update is eight rounds over the byte taken in (R322). -/
theorem crcUpdateDefault_rounds (acc : Half) (b : Byte) :
    crcUpdateDefault acc b = crcRound (crcRound (crcRound (crcRound (crcRound (crcRound (crcRound (crcRound
      (acc ^^^ b.setWidth 16)))))))) := rfl

/-- Settles O59: eight rounds for each byte of the fourteen payloads. -/
theorem checksumReference : Obligations.ChecksumReference := by
  have hsum := frameSum_of_default (cfg := Config.default) rfl
  simp [Obligations.ChecksumReference, hsum, crcUpdateDefault_rounds, crcRound, Config.crcSeed]

/-! ### An examined payload byte (R163, R170 to R176) -/

section
variable {s t : State}

/-- A response awaited in `s` is lost in `t` (R163). -/
def AwaitedLost (s t : State) : Prop := awaiting s = true → t.outboundState = .idle ∧ t.inbound.length = 0

/-- From `s` to `t` a counted payload byte was examined: the frame goes on with the checksum and an awaited response as they
were, or the line is discarded and an awaited response is lost. -/
def Examined (s t : State) : Prop :=
  (t.commandKind ≠ .discard ∧ t.crcAcc = s.crcAcc ∧ (awaiting s = true → awaiting t = true)) ∨
    (t.commandKind = .discard ∧ AwaitedLost s t)

theorem awaitedLost_discard (r : Reason) (s : State) : AwaitedLost s (discard r s) := by
  intro hawaits
  simp [discard_eq, hawaits]

theorem examined_discard (r : Reason) (s : State) : Examined s (discard r s) :=
  .inr ⟨by rw [discard_eq], awaitedLost_discard r s⟩

section
variable (v : Byte) (htaken : s.commandKind ≠ .discard)
include htaken

theorem examined_appendInbound : Examined s (appendInbound v s) := by
  unfold appendInbound
  split
  · exact examined_discard _ s
  · rcases hw : bufWrite .inbound v s with ⟨ok, u⟩
    cases ok
    · obtain ⟨reqs, gs, n, rfl⟩ := bufWrite_false hw
      exact examined_discard .allocFail _
    · obtain ⟨reqs, gs, n, rfl⟩ := bufWrite_true hw
      exact .inl ⟨htaken, rfl, id⟩

theorem examined_acceptAddress : Examined s (acceptAddress v s) := by
  rw [acceptAddress, resetInbound_eq]
  exact examined_appendInbound v htaken

theorem examined_transmitByte : Examined s (transmitByte v s) := by
  unfold transmitByte
  split
  · split
    · exact examined_discard _ s
    · split
      · exact examined_discard _ s
      · exact examined_acceptAddress v htaken
  · exact examined_appendInbound v htaken

theorem examined_requestByte : Examined s (requestByte v s) := by
  unfold requestByte
  split
  · split
    · exact examined_discard _ s
    · split
      · exact .inl ⟨nofun, rfl, id⟩
      · split
        · exact examined_discard _ s
        · exact examined_acceptAddress v htaken
  · split
    · exact examined_appendInbound v htaken
    · exact examined_discard _ s

theorem examined_nackedRequestByte : Examined s (nackedRequestByte v s) := by
  unfold nackedRequestByte
  split
  · exact .inl ⟨htaken, rfl, id⟩
  · exact examined_discard _ s

theorem examined_responseByte : Examined s (responseByte v s) := by
  unfold responseByte
  split
  · split
    · exact .inl ⟨htaken, rfl, fun _ => rfl⟩
    · exact examined_discard _ s
  · split
    · exact examined_appendInbound v htaken
    · exact examined_discard _ s

theorem examined_payloadByte : Examined (countPayload v s) (payloadByte v s) := by
  have hcounted : (countPayload v s).commandKind ≠ .discard := htaken
  unfold payloadByte
  split
  · exact examined_transmitByte v hcounted
  · exact examined_requestByte v hcounted
  · exact examined_nackedRequestByte v hcounted
  · exact examined_responseByte v hcounted
  · exact .inl ⟨hcounted, rfl, id⟩
  · exact .inl ⟨hcounted, rfl, id⟩

end

/-! ### The payload of a line, with the integrity layer (R323) -/

/-- The frame that began in `s` goes on in `t`, with this checksum and an awaited response still awaited. -/
abbrev FrameGoesOn (acc : Half) (s t : State) : Prop :=
  AwaitsPair t ∧ t.crcAcc = acc ∧ (awaiting s = true → awaiting t = true)

/-- The line that began in `s` is skipped in `t`, an awaited response lost. -/
abbrev LineLost (s t : State) : Prop := SkipsLine t ∧ AwaitedLost s t

theorem parsed_takeByte (v : Byte) (s : State) : Parsed s (takeByte s v) := by
  unfold takeByte
  split
  · exact .refl s
  · exact parsed_payloadByte v s

theorem parsed_foldl_takeByte (payload : List Byte) (s : State) : Parsed s (payload.foldl takeByte s) := by
  induction payload generalizing s with
  | nil => exact .refl s
  | cons v payload ih => exact (parsed_takeByte v s).trans (ih _)

theorem foldl_takeByte_of_skips (payload : List Byte) (h : SkipsLine s) : payload.foldl takeByte s = s := by
  induction payload with
  | nil => rfl
  | cons v payload ih => rw [List.foldl_cons, takeByte_of_skips v h, ih]

theorem takeByte_outcome (v : Byte) (h : AwaitsPair s) (hlayer : s.cfg.crcEnable = true) :
    FrameGoesOn (crcUpdate s.cfg s.crcAcc v) s (takeByte s v) ∨ LineLost s (takeByte s v) := by
  obtain ⟨⟨-, hkind, -⟩, -⟩ := id h
  have hbody := takeByte_inBody v (.inl h)
  have hexamined := examined_payloadByte v (not_discard_of_isPayload hkind)
  rw [← takeByte_of_awaits v h] at hexamined
  rcases hexamined with ⟨htaken, hacc, hawaits⟩ | ⟨hskips, hlost⟩
  · have hpair : AwaitsPair (takeByte s v) := hbody.resolve_right fun hskip => htaken hskip.2
    exact .inl ⟨hpair, hacc.trans (if_pos hlayer), hawaits⟩
  · exact .inr ⟨⟨svc_of_inBody hbody, hskips⟩, hlost⟩

theorem foldl_takeByte_outcome (payload : List Byte) (h : AwaitsPair s) (hlayer : s.cfg.crcEnable = true) :
    FrameGoesOn (payload.foldl (crcUpdate s.cfg) s.crcAcc) s (payload.foldl takeByte s) ∨
      LineLost s (payload.foldl takeByte s) := by
  induction payload generalizing s with
  | nil => exact .inl ⟨h, rfl, id⟩
  | cons v payload ih =>
    rw [List.foldl_cons, List.foldl_cons]
    rcases takeByte_outcome v h hlayer with ⟨hpair, hacc, hawaits⟩ | hlost
    · have hcfg : (takeByte s v).cfg = s.cfg := (parsed_takeByte v s).silent.cfg
      rw [← hacc, ← hcfg]
      rcases ih hpair (hcfg ▸ hlayer) with ⟨hpair', hacc', hawaits'⟩ | ⟨hskips, hlost⟩
      · exact .inl ⟨hpair', hacc', hawaits' ∘ hawaits⟩
      · exact .inr ⟨hskips, hlost ∘ hawaits⟩
    · rw [foldl_takeByte_of_skips payload hlost.1]
      exact .inr hlost

/-! ### The suffix and the line feed (R178, R179, R200, R203) -/

theorem parsed_takeSum (sum : Option Half) (s : State) : Parsed s (takeSum sum s) := by
  unfold takeSum
  split
  · exact .refl s
  · split
    · exact .refl s
    · split
      · exact .registers ..
      · exact parsed_discard _ s

theorem takeSum_of_skips (sum : Option Half) (h : SkipsLine s) : takeSum sum s = s := by
  cases sum with
  | none => rfl
  | some w => exact if_pos h.2

theorem takeSum_some (w : Half) (h : AwaitsPair s) (hlayer : s.cfg.crcEnable = true) :
    takeSum (some w) s = { s with inCrc := true, crcRx := w, crcDigits := 4 } := by
  obtain ⟨⟨-, hkind, -⟩, -⟩ := h
  exact (if_neg (not_discard_of_isPayload hkind)).trans (if_pos hlayer)

/-- The checks of a line's end let only a complete suffix pass that equals the checksum (R203). -/
theorem suffixOk_of_frameCheck (h : frameCheck s = none) : SuffixOk s := by
  intro hlayer
  simp only [frameCheck, hlayer, if_true, ite_some_eq_none, not_not, Bool.not_eq_true', Bool.not_eq_false] at h
  obtain ⟨-, -, hcrc, hdigits, hsum, -⟩ := h
  exact ⟨hcrc, hdigits, hsum⟩

/-- Behind a missing or wrong suffix the line feed rejects the line (R203, R208, R325). -/
theorem endBranch_of_wrong_sum {sum : Option Half} (h : AwaitsPair s) (hlayer : s.cfg.crcEnable = true)
    (hwrong : sum ≠ some s.crcAcc) : ∃ r, endBranch (takeSum sum s) = rejectLine r (takeSum sum s) := by
  obtain ⟨⟨-, hkind, hcrc, -⟩, -⟩ := id h
  cases sum with
  | none =>
    cases hcheck : frameCheck s with
    | none =>
      obtain ⟨hsuffix, -⟩ := suffixOk_of_frameCheck hcheck hlayer
      exact absurd (hcrc.symm.trans hsuffix) nofun
    | some r => exact ⟨r, endBranch_of_frameCheck hkind hcheck⟩
  | some w =>
    rw [takeSum_some w h hlayer]
    cases hcheck : frameCheck { s with inCrc := true, crcRx := w, crcDigits := 4 } with
    | none =>
      obtain ⟨-, -, hsum⟩ := suffixOk_of_frameCheck hcheck hlayer
      exact absurd (congrArg some hsum) hwrong
    | some r => exact ⟨r, endBranch_of_frameCheck hkind hcheck⟩

theorem awaiting_takeSum (sum : Option Half) (h : AwaitsPair s) (hlayer : s.cfg.crcEnable = true) :
    awaiting (takeSum sum s) = awaiting s := by
  cases sum with
  | none => rfl
  | some w => rw [takeSum_some w h hlayer]; rfl

/-! ### The whole line (R325) -/

/-- From `s` to `t` a line went by that did nothing but move the parser, and an awaited response is lost. -/
abbrev LineDropped (s t : State) : Prop := Parsed s t ∧ t.commandKind = .none ∧ AwaitedLost s t

theorem lineDropped_of_rejectLine (hline : Parsed s t) (hawaits : awaiting s = true → awaiting t = true) {r : Reason}
    (hend : endBranch t = rejectLine r t) : LineDropped s (endOfLine t) := by
  rw [endOfLine, hend]
  exact ⟨(hline.trans (parsed_rejectLine r t)).trans (.registers ..), rfl, awaitedLost_discard r t ∘ hawaits⟩

theorem lineDropped_of_lineLost (hline : Parsed s t) (h : LineLost s t) : LineDropped s (endOfLine t) := by
  obtain ⟨⟨-, hskips⟩, hlost⟩ := h
  rw [endOfLine, endBranch, hskips]
  exact ⟨hline.trans (.registers ..), rfl, hlost⟩

/-- With the integrity layer, a line without the sum of its payload is dropped (R320, R325). -/
theorem lineEffect_wrong_sum (k : Keyword) {payload : List Byte} {sum : Option Half} (hsvc : s.svc = .none)
    (hlayer : s.cfg.crcEnable = true) (hwrong : sum ≠ some (frameSum s.cfg payload)) :
    LineDropped s (lineEffect k payload sum s) := by
  have hframe : AwaitsPair (startFrame k s) := ⟨⟨hsvc, by cases k <;> rfl, rfl, rfl⟩, rfl⟩
  have hpayload : Parsed s (payload.foldl takeByte (startFrame k s)) :=
    .trans (.registers ..) (parsed_foldl_takeByte payload _)
  have hlayer' : (payload.foldl takeByte (startFrame k s)).cfg.crcEnable = true := by rwa [hpayload.silent.cfg]
  rw [lineEffect]
  rcases foldl_takeByte_outcome payload hframe hlayer with ⟨hpair, hacc, hawaits⟩ | hlost
  · have hsum : sum ≠ some (payload.foldl takeByte (startFrame k s)).crcAcc := hacc ▸ hwrong
    obtain ⟨r, hend⟩ := endBranch_of_wrong_sum hpair hlayer' hsum
    refine lineDropped_of_rejectLine (hpayload.trans (parsed_takeSum sum _)) (fun h => ?_) hend
    rw [awaiting_takeSum sum hpair hlayer']
    exact hawaits h
  · rw [takeSum_of_skips sum hlost.1]
    exact lineDropped_of_lineLost hpayload hlost

/-- Settles O31: the line's effect, which the scratch cells do not show. -/
theorem wrongSumDiscarded : Obligations.WrongSumDiscarded := by
  intro i k payload sum s hline hlayer _ hready hwrong
  obtain ⟨c, hrun⟩ := exec_line hline hready
  obtain ⟨-, -, hsvc⟩ := hready
  obtain ⟨hmoves, hkind, hlost⟩ := lineEffect_wrong_sum k hsvc hlayer hwrong
  exact ⟨_, hrun, hmoves.silent.unraised, hmoves.silent.unsent, hmoves.svc.trans hsvc, hkind, hmoves.responses, hlost⟩

end

end Sys2Proof.Machine
end

section
/-! SUPPORT. Nothing stops the block (R340): in a state with the invariant the parser is in neither of the two phases in
which a byte faults (R26, R161, log 10), so every byte, every text and every other operation runs. -/

namespace Sys2Proof.Machine

section
variable {s : State} {b : Byte} {i : Instr}

/-! ### A received byte (R160) -/

/-- Before the sixth header character a scratch cell is free (R161). -/
theorem headerChar_runs (h : PhaseSound s) (hkind : s.commandKind = .none) : Runs (headerChar b s) := by
  obtain ⟨hheader, -⟩ := h
  obtain ⟨hroom, -⟩ := hheader hkind
  unfold headerChar
  split
  · exact ⟨_, rfl⟩
  · rw [dif_pos (by omega)]
    dsimp only
    split
    · exact ⟨_, rfl⟩
    · exact ⟨_, rfl⟩

/-- A half-received pair has a hex digit in the first cell (R26). -/
theorem hexChar_runs {d : BitVec 4} (h : PhaseSound s) (hkind : s.commandKind.isPayload = true) :
    Runs (hexChar b d s) := by
  obtain ⟨-, -, hpayload, -⟩ := h
  obtain ⟨-, hfirst⟩ := hpayload hkind
  by_cases hlen : s.scratchLen = 0
  · exact ⟨_, hexChar_first hlen⟩
  · obtain ⟨hhex, -⟩ := hfirst hlen
    obtain ⟨hi, hdigit⟩ := Option.isSome_iff_exists.mp hhex
    exact ⟨_, hexChar_second hlen hdigit⟩

theorem payloadChar_runs (h : PhaseSound s) (hkind : s.commandKind.isPayload = true) : Runs (payloadChar b s) := by
  unfold payloadChar
  split
  · exact ⟨_, rfl⟩
  · split
    · exact hexChar_runs h hkind
    · split
      · exact ⟨_, rfl⟩
      · split
        · exact ⟨_, rfl⟩
        · exact ⟨_, rfl⟩

theorem feedReady_runs (h : PhaseSound s) : Runs (feedReady b s) := by
  unfold feedReady
  split
  · exact ⟨_, rfl⟩
  · split
    · exact ⟨_, rfl⟩
    · split
      · exact ⟨_, rfl⟩
      next hk => exact headerChar_runs h hk
      all_goals
        next hk => exact payloadChar_runs h (by rw [hk]; rfl)

/-- Every byte of a text finds the invariant that the bytes before it kept, or the text waits (R160, R181). -/
theorem feedText_runs (bs : List Byte) (h : s.Inv) : Runs (feedText bs s) := by
  induction bs generalizing s with
  | nil => exact ⟨s, rfl⟩
  | cons b bs ih =>
    by_cases hsvc : s.svc = .none
    · obtain ⟨-, -, hphase, -⟩ := id h
      obtain ⟨u, hu⟩ := feedReady_runs (b := b) hphase
      rw [feedText_cons hsvc hu]
      exact ih (feedReady_inv h hsvc hu)
    · exact ⟨_, feedText_stalled hsvc⟩

/-! ### Every operation -/

theorem exec_runs (i : Instr) (h : s.Inv) : Runs (exec i s) := by
  rcases operation_kinds i with hreceive | hcommand | rfl | rfl
  · obtain ⟨text, hfeed⟩ := exec_of_isReceive hreceive
    rw [hfeed]
    exact feedText_runs text h
  · obtain ⟨t, hrun, -⟩ := command_oneAnswer s hcommand
    exact ⟨t, hrun⟩
  · exact ⟨_, rfl⟩
  · exact ⟨_, rfl⟩

end

/-- Settles O41: a turn leaves the registers alone, so what it brings finds the invariant. -/
theorem nothingStops : Obligations.NothingStops := by
  intro s h
  obtain ⟨rx, cs, ag, hstate⟩ := fetch_state s
  unfold step
  split
  next i u hturn =>
    rw [hturn] at hstate
    have hu : u = { s with rx := rx, cmds := cs, agenda := ag } := hstate
    subst hu
    exact exec_runs i h
  · exact ⟨_, rfl⟩
  · exact ⟨_, rfl⟩

end Sys2Proof.Machine
end

section
/-! SUPPORT. What raises an event (R354): the line feed of an accepted frame, the end of a wait, and nothing else. -/

namespace Sys2Proof.Machine

section
variable {s t : State} {i : Instr} {b c : Byte}

/-! ### The receive operations (R204, R205, R357) -/

/-- From `s` to `t` a callback window opened: its own event was raised, and no Discard recorded (R356(d), R357). -/
abbrev WindowOpened (s t : State) : Prop :=
  t.diag = s.diag ∧
    ((∃ n, t.svc = .receive ∧ t.events = s.events ++ [.onReceive n]) ∨
      t.svc = .request ∧ t.events = s.events ++ [.onRequest])

theorem endOfLine_events (s : State) : (endOfLine s).events = s.events ∨ WindowOpened s (endOfLine s) := by
  have hreject (r : Reason) : (rejectLine r s).events = s.events := (parsed_rejectLine r s).silent.unraised
  unfold endOfLine endBranch
  split
  · unfold endOfHeader
    split
    · exact .inl (hreject _)
    · exact .inl rfl
  · exact .inl rfl
  · split
    · exact .inr ⟨rfl, .inl ⟨_, rfl, rfl⟩⟩
    · exact .inl (hreject _)
  · split
    · exact .inr ⟨rfl, .inr ⟨rfl, rfl⟩⟩
    · exact .inl (hreject _)
  · split
    · exact .inl rfl
    · exact .inl (hreject _)
  · split
    · exact .inl rfl
    · exact .inl (hreject _)

theorem feedReady_events (hrun : feedReady b s = .next t) : t.events = s.events ∨ b = charLF ∧ WindowOpened s t := by
  by_cases hb : b = charLF
  · rw [feedReady, if_pos hb] at hrun
    cases hrun
    exact (endOfLine_events s).imp_right fun hopened => ⟨hb, hopened⟩
  · exact .inl (parsed_feedReady hb hrun).silent.unraised

/-- A text whose only line feed can be its last byte raises an event there, at a port ready from the text's first byte on. -/
theorem feedText_events {cs : List Byte} (hcs : charLF ∉ cs) (hrun : feedText (cs ++ [c]) s = .next t) :
    t.events = s.events ∨ c = charLF ∧ s.svc = .none ∧ ∃ u, u.events = s.events ∧ WindowOpened u t := by
  induction cs generalizing s with
  | nil =>
    rcases feedText_cons_next hrun with ⟨hsvc, u, hu, hrest⟩ | rfl
    · cases hrest
      exact (feedReady_events hu).imp_right fun ⟨hc, hopened⟩ => ⟨hc, hsvc, s, rfl, hopened⟩
    · exact .inl rfl
  | cons b cs ih =>
    rcases feedText_cons_next hrun with ⟨hsvc, u, hu, hrest⟩ | rfl
    · have hquiet := (parsed_feedReady (List.ne_of_not_mem_cons hcs).symm hu).silent.unraised
      have htail := ih (List.not_mem_of_not_mem_cons hcs) hrest
      rw [hquiet] at htail
      exact htail.imp_right fun ⟨hc, _, hopened⟩ => ⟨hc, hsvc, hopened⟩
    · exact .inl rfl

/-! ### The causes (R354) -/

/-- The operation brings the line feed of a received line. -/
abbrev BringsLineFeed (i : Instr) : Prop := i = .feedLF ∨ ∃ text, encode i = .line text

/-- What R354 asks of the operation `i` that leads from `s` to `t` and raises this event. -/
def Causes (i : Instr) (s t : State) : Event → Prop
  | .onReceive _ => BringsLineFeed i ∧ s.svc = .none ∧ t.svc = .receive
  | .onRequest => BringsLineFeed i ∧ s.svc = .none ∧ t.svc = .request
  | .reqDone st v =>
    (i = .reqComplete ∨ ∃ a b, i = .cmdEnd a b ∧ st = .aborted) ∧ s.waitActive = true ∧ t.waitActive = false ∧
      t.result = v ∧ t.resultStatus = st

/-- The operation raised no event, or one that it may cause. -/
def EventCaused (i : Instr) (s t : State) : Prop :=
  t.events = s.events ∨ ∃ e, t.events = s.events ++ [e] ∧ Causes i s t e

theorem eventCaused_of_windowOpened {u : State} (hbrings : BringsLineFeed i) (hsvc : s.svc = .none)
    (hquiet : u.events = s.events) (h : WindowOpened u t) : EventCaused i s t := by
  rw [WindowOpened, hquiet] at h
  obtain ⟨-, ⟨n, hwindow, hraised⟩ | ⟨hwindow, hraised⟩⟩ := h
  · exact .inr ⟨_, hraised, hbrings, hsvc, hwindow⟩
  · exact .inr ⟨_, hraised, hbrings, hsvc, hwindow⟩

theorem receive_eventCaused (hwf : i.wellFormed = true) (hreceive : i.isReceive = true) (hrun : exec i s = .next t) :
    EventCaused i s t := by
  rcases he : encode i with b | text | w | _ | _
  · rw [exec_of_encode_byte he, ← feedText_singleton] at hrun
    rcases feedText_events (cs := []) List.not_mem_nil hrun with hquiet | ⟨rfl, hsvc, u, hu, hopened⟩
    · exact .inl hquiet
    · exact eventCaused_of_windowOpened (.inl (ofByte_of_encode hwf he).symm) hsvc hu hopened
  · obtain ⟨cs, rfl, hcs⟩ := exists_eq_append_lf_of_encode he
    rw [exec_of_encode_line he] at hrun
    rcases feedText_events hcs hrun with hquiet | ⟨-, hsvc, u, hu, hopened⟩
    · exact .inl hquiet
    · exact eventCaused_of_windowOpened (.inr ⟨_, he⟩) hsvc hu hopened
  all_goals cases i <;> cases he <;> cases hreceive

/-- END aborts a wait that goes on (R253). -/
theorem end_eventCaused {a b : Byte} (hrun : exec (.cmdEnd a b) s = .next t) : EventCaused (.cmdEnd a b) s t := by
  rw [endAndReset.1] at hrun
  cases hrun
  cases hwait : s.waitActive with
  | false => exact .inl (by simp)
  | true => exact .inr ⟨.reqDone .aborted 0, by simp, .inr ⟨a, b, rfl, rfl⟩, hwait, rfl, rfl, by simp⟩

theorem reqComplete_eventCaused (hrun : exec .reqComplete s = .next t) : EventCaused .reqComplete s t := by
  rcases reqComplete_next hrun with rfl | ⟨hwait, ⟨-, -, rfl⟩ | ⟨reqs, rfl⟩⟩
  · exact .inl rfl
  · exact .inr ⟨_, rfl, .inl rfl, hwait, rfl, rfl, rfl⟩
  · exact .inr ⟨.reqDone .timeout 0, by rw [endWait_eq, abortResponseLine_eq], .inl rfl, hwait, rfl, rfl, rfl⟩

/-- Of the host commands only END raises an event (R354). -/
theorem command_events (hcommand : i.isCommand = true) (hnotEnd : ∀ a b, i ≠ .cmdEnd a b)
    (hrun : exec i s = .next t) : t.events = s.events := by
  cases i with
  | cmdNop a b => cases hrun; rfl
  | cmdReserved op a b => cases hrun; rfl
  | cmdAvail a b => cases hrun; rfl
  | cmdSetto a b => cases hrun; rfl
  | cmdPeek a b => cases hrun; split <;> rfl
  | cmdRdreg a b => cases hrun; split <;> rfl
  | cmdBegin a b =>
    cases hrun
    split
    · rfl
    · split <;> rfl
  | cmdBeginm a b =>
    cases hrun
    split
    · rfl
    · split <;> rfl
  | cmdEnd a b => exact absurd rfl (hnotEnd a b)
  | cmdBegintx a b =>
    cases hrun
    split
    · rfl
    · split <;> rfl
  | cmdWrite a b =>
    rcases cmdWrite_next hrun with ⟨st, rfl⟩ | ⟨-, -, buf, -, rs, reqs, gs, n, rfl⟩ <;> rfl
  | cmdEndtx a b =>
    rcases cmdEndtx_next hrun with ⟨st, rfl⟩ | ⟨-, items, rs, reqs, rfl⟩ <;> rfl
  | cmdReqfrom a b =>
    rcases cmdReqfrom_next hrun with
      ⟨st, rfl⟩ | ⟨-, ⟨items, rs, reqs, gs, n, rfl⟩ | ⟨rs, reqs, gs, n, rfl⟩⟩ <;> rfl
  | cmdRead a b =>
    rcases cmdRead_next hrun with ⟨v, rfl⟩ | ⟨-, v, rfl⟩ <;> rfl
  | cmdCbdone a b =>
    rcases cmdCbdone_next hrun with rfl | ⟨-, rs, reqs, rfl⟩ | ⟨-, items, rs, reqs, gs, n, rfl⟩ <;> rfl
  | _ => cases hcommand

theorem exec_eventCaused (hwf : i.wellFormed = true) (hrun : exec i s = .next t) : EventCaused i s t := by
  rcases operation_kinds i with hreceive | hcommand | rfl | rfl
  · exact receive_eventCaused hwf hreceive hrun
  · by_cases hend : ∃ a b, i = .cmdEnd a b
    · obtain ⟨a, b, rfl⟩ := hend
      exact end_eventCaused hrun
    · exact .inl (command_events hcommand (fun a b he => hend ⟨a, b, he⟩) hrun)
  · cases hrun
    exact .inl (by split <;> rfl)
  · exact reqComplete_eventCaused hrun

theorem causes_of_raised {e : Event} (h : EventCaused i s t) (hraised : t.events = s.events ++ [e]) :
    Causes i s t e := by
  rcases h with hquiet | ⟨e', hraised', hcauses⟩
  · simp [hquiet] at hraised
  · obtain rfl : e' = e := by simpa using hraised'.symm.trans hraised
    exact hcauses

/-- A line feed that raises an event records no Discard (R356(d)). -/
theorem feedLF_diag (hrun : exec .feedLF s = .next t) (hraised : t.events ≠ s.events) : t.diag = s.diag := by
  by_cases hsvc : s.svc = .none
  · cases (exec_feedLF hsvc rfl).symm.trans hrun
    obtain ⟨hdiag, -⟩ := (endOfLine_events s).resolve_left hraised
    exact hdiag
  · cases (feed_stalled hsvc).symm.trans hrun
    rfl

end

/-- Settles O36: every operation raises no event or one that it may cause. -/
theorem eventCauses : Obligations.EventCauses := by
  intro i s t hwf hrun
  refine ⟨fun e hraised => ?causes, ?diag⟩
  case causes =>
    have hcauses := causes_of_raised (exec_eventCaused hwf hrun) hraised
    exact ⟨fun n he => by rwa [he] at hcauses, fun he => by rwa [he] at hcauses, fun st v he => by rwa [he] at hcauses⟩
  case diag =>
    rintro rfl hraised
    exact feedLF_diag hrun hraised

end Sys2Proof.Machine
end

section
/-! SUPPORT. The diagnostic log is write-only (R344): what every operation but RDREG does to a block with the log switched off
is what it does to the block itself, the log aside. -/

namespace Sys2Proof.Machine

/-- The block with its diagnostic log switched off and empty. -/
def State.unlogged (s : State) : State := { s with cfg := { s.cfg with diagEnable := false }, diag := [] }

/-- Two states that are one but for the log differ in its switch and its records only. -/
theorem eq_of_unlogged_eq {t u : State} (h : t.unlogged = u.unlogged) :
    u = { t with cfg := { t.cfg with diagEnable := u.cfg.diagEnable }, diag := u.diag } := by
  have hrestore (v : State) :
      v = { v.unlogged with cfg := { v.unlogged.cfg with diagEnable := v.cfg.diagEnable }, diag := v.diag } := rfl
  refine (hrestore u).trans ?_
  rw [← h]
  rfl

/-- The outcome of a step, its next state seen through `f`. -/
def onNext (f : State → State) : Host.Outcome State Fault Refusal → Host.Outcome State Fault Refusal
  | .next s => .next (f s)
  | .fault r => .fault r
  | .refused r => .refused r

theorem onNext_ite (f : State → State) (p : Prop) [Decidable p] (o o' : Host.Outcome State Fault Refusal) :
    onNext f (if p then o else o') = if p then onNext f o else onNext f o' := apply_ite ..

theorem onNext_eq_next {f : State → State} {o : Host.Outcome State Fault Refusal} {u : State}
    (h : onNext f o = .next u) : ∃ t, o = .next t ∧ f t = u := by
  cases o with
  | next t => exact ⟨t, rfl, Host.Outcome.next.inj h⟩
  | fault r => cases h
  | refused r => cases h

theorem onNext_eq_fault {f : State → State} {o : Host.Outcome State Fault Refusal} {r : Fault}
    (h : onNext f o = .fault r) : o = .fault r := by
  cases o with
  | next t => cases h
  | fault r => exact h
  | refused r => cases h

section
variable (id : BufId) (b v : Byte) (s : State)

/-! ### The shared operations -/

theorem diagnose_unlogged (r : Reason) : s.unlogged.diagnose r = (s.diagnose r).unlogged := by
  unfold State.diagnose
  split
  · contradiction
  · split <;> rfl

theorem bufRelease_unlogged : bufRelease id s.unlogged = (bufRelease id s).unlogged := by
  cases id
  · simp only [bufRelease_inbound_eq]
    rfl
  · simp only [bufRelease_outbound_eq]
    rfl

theorem bufClear_unlogged : bufClear id s.unlogged = (bufClear id s).unlogged := by
  cases id
  · simp only [bufClear_inbound_eq]
    rfl
  · simp only [bufClear_outbound_eq]
    rfl

theorem bufWrite_unlogged : bufWrite id v s.unlogged = ((bufWrite id v s).1, (bufWrite id v s).2.unlogged) := by
  have hbuf : s.unlogged.buf id = s.buf id := by cases id <;> rfl
  have hset (u : State) (buf : Buffer) : u.unlogged.setBuf id buf = (u.setBuf id buf).unlogged := by cases id <;> rfl
  have hasked (n : Nat) : drawGrant (s.unlogged.logAlloc id n) = (drawGrant (s.logAlloc id n)).unlogged := by
    simp only [drawGrant_eq]
    rfl
  by_cases hfits : (s.buf id).length + 1 ≤ (s.buf id).capacity
  · rw [bufWrite_fits v hfits, bufWrite_fits v (hbuf ▸ hfits), hbuf, hset]
  · have hgrows := Nat.lt_of_not_le hfits
    cases hg : nextGrant s with
    | false =>
      rw [bufWrite_refused v hgrows hg, bufWrite_refused (s := s.unlogged) v (hbuf ▸ hgrows) hg, hbuf,
        ← bufRelease_unlogged, ← hasked]
      rfl
    | true =>
      rw [bufWrite_grows v hgrows hg, bufWrite_grows (s := s.unlogged) v (hbuf ▸ hgrows) hg, hbuf, ← hset, ← hasked]
      rfl

theorem resetInbound_unlogged : resetInbound s.unlogged = (resetInbound s).unlogged := by
  simp only [resetInbound, bufClear_unlogged, apply_ite State.unlogged]
  rfl

theorem discard_unlogged (r : Reason) : discard r s.unlogged = (discard r s).unlogged := by
  simp only [discard_eq]
  rfl

/-- A line is the same with the log on and off: the writer reads the integrity layer only (R230, R233). -/
theorem emitFrame_unlogged (k : Keyword) (addr : Byte) (data : List Byte) :
    emitFrame k addr data s.unlogged = (emitFrame k addr data s).unlogged := rfl

/-! ### Payload bytes -/

theorem appendInbound_unlogged : appendInbound v s.unlogged = (appendInbound v s).unlogged := by
  have hwrite := bufWrite_unlogged .inbound v s
  unfold appendInbound
  rw [hwrite, discard_unlogged, apply_ite State.unlogged]
  rcases bufWrite .inbound v s with ⟨ok, t⟩
  cases ok
  · simp only [discard_unlogged]
    rfl
  · rfl

theorem acceptAddress_unlogged : acceptAddress v s.unlogged = (acceptAddress v s).unlogged := by
  rw [acceptAddress, resetInbound_unlogged]
  exact appendInbound_unlogged v { resetInbound s with inboundActive := true }

theorem transmitByte_unlogged : transmitByte v s.unlogged = (transmitByte v s).unlogged := by
  simp only [transmitByte, discard_unlogged, acceptAddress_unlogged, appendInbound_unlogged, apply_ite State.unlogged]
  rfl

theorem requestByte_unlogged : requestByte v s.unlogged = (requestByte v s).unlogged := by
  simp only [requestByte, discard_unlogged, acceptAddress_unlogged, ← appendInbound_unlogged, apply_ite State.unlogged]
  rfl

theorem nackedRequestByte_unlogged : nackedRequestByte v s.unlogged = (nackedRequestByte v s).unlogged := by
  simp only [nackedRequestByte, discard_unlogged, apply_ite State.unlogged]
  rfl

theorem responseByte_unlogged : responseByte v s.unlogged = (responseByte v s).unlogged := by
  simp only [responseByte, discard_unlogged, appendInbound_unlogged, apply_ite State.unlogged]
  rfl

theorem payloadByte_unlogged : payloadByte v s.unlogged = (payloadByte v s).unlogged := by
  have hkind : s.unlogged.commandKind = s.commandKind := rfl
  have hcount : countPayload v s.unlogged = (countPayload v s).unlogged := rfl
  unfold payloadByte
  rw [hkind, hcount]
  cases s.commandKind with
  | none => rfl
  | discard => rfl
  | masterTransmit => exact transmitByte_unlogged v _
  | masterRequest => exact requestByte_unlogged v _
  | slaveResponse => exact responseByte_unlogged v _
  | sendDiscarded => exact nackedRequestByte_unlogged v _

/-! ### Characters -/

theorem hexChar_unlogged (d : BitVec 4) : hexChar b d s.unlogged = onNext State.unlogged (hexChar b d s) := by
  have hcell : s.unlogged.scratch = s.scratch := rfl
  rw [hexChar, hexChar, onNext_ite, hcell]
  refine if_congr Iff.rfl rfl ?_
  cases hexVal? s.scratch.c0 with
  | none => rfl
  | some hi => exact congrArg Host.Outcome.next (payloadByte_unlogged _ { s with scratchLen := 0 })

theorem crcChar_unlogged : crcChar b s.unlogged = (crcChar b s).unlogged := by
  unfold crcChar
  cases hexVal? b with
  | none => exact discard_unlogged s _
  | some d =>
    simp only [discard_unlogged, apply_ite State.unlogged]
    rfl

theorem separator_unlogged : separator s.unlogged = (separator s).unlogged := by
  simp only [separator, discard_unlogged, apply_ite State.unlogged]
  rfl

theorem hashMark_unlogged : hashMark s.unlogged = (hashMark s).unlogged := by
  simp only [hashMark, discard_unlogged, apply_ite State.unlogged]
  rfl

theorem payloadChar_unlogged : payloadChar b s.unlogged = onNext State.unlogged (payloadChar b s) := by
  rw [payloadChar, payloadChar, onNext_ite, crcChar_unlogged]
  refine if_congr Iff.rfl rfl ?_
  cases hexVal? b with
  | none =>
    simp only [onNext_ite, separator_unlogged, hashMark_unlogged, discard_unlogged]
    rfl
  | some d => exact hexChar_unlogged b s d

theorem headerComplete_unlogged : headerComplete s.unlogged = (headerComplete s).unlogged := by
  have hcells : s.unlogged.scratch.cells = s.scratch.cells := rfl
  unfold headerComplete
  rw [hcells]
  cases matchHeader s.scratch.cells with
  | none => exact discard_unlogged s _
  | some k => rfl

theorem headerChar_unlogged : headerChar b s.unlogged = onNext State.unlogged (headerChar b s) := by
  rw [headerChar, headerChar, onNext_ite, discard_unlogged]
  refine if_congr Iff.rfl rfl ?_
  by_cases hroom : s.scratchLen.val < 6
  · have hroom' : s.unlogged.scratchLen.val < 6 := hroom
    have hcomplete := headerComplete_unlogged
      { s with scratch := s.scratch.set s.scratchLen.val b, scratchLen := ⟨s.scratchLen.val + 1, by omega⟩ }
    rw [dif_pos hroom, dif_pos hroom', onNext_ite]
    exact if_congr Iff.rfl (congrArg Host.Outcome.next hcomplete) rfl
  · have hroom' : ¬s.unlogged.scratchLen.val < 6 := hroom
    rw [dif_neg hroom, dif_neg hroom']
    rfl

/-! ### The end of a line and Feed -/

theorem rejectLine_unlogged (r : Reason) : rejectLine r s.unlogged = (rejectLine r s).unlogged :=
  congrArg (fun t : State => { t with commandKind := .none }) (discard_unlogged s r)

theorem endOfHeader_unlogged : endOfHeader s.unlogged = (endOfHeader s).unlogged := by
  rw [endOfHeader, endOfHeader, apply_ite State.unlogged]
  exact if_congr Iff.rfl (rejectLine_unlogged s .truncatedKeyword) rfl

/-- What the checks at a line's end select, the log aside (R200). -/
theorem endBranch_unlogged : endBranch s.unlogged = (endBranch s).unlogged := by
  have hkind : s.unlogged.commandKind = s.commandKind := rfl
  have hframe : frameCheck s.unlogged = frameCheck s := rfl
  have hrequest : requestCheck s.unlogged = requestCheck s := rfl
  unfold endBranch
  rw [hkind, hframe, hrequest]
  cases s.commandKind with
  | none => exact endOfHeader_unlogged s
  | discard => rfl
  | masterTransmit =>
    cases frameCheck s
    exacts [rfl, rejectLine_unlogged s _]
  | masterRequest =>
    cases frameCheck s <|> requestCheck s
    exacts [rfl, rejectLine_unlogged s _]
  | slaveResponse =>
    cases frameCheck s
    exacts [rfl, rejectLine_unlogged s _]
  | sendDiscarded =>
    cases frameCheck s <|> requestCheck s
    exacts [rfl, rejectLine_unlogged s _]

theorem endOfLine_unlogged : endOfLine s.unlogged = (endOfLine s).unlogged :=
  congrArg (fun t : State => { t with inCrc := false, crcDigits := 0 }) (endBranch_unlogged s)

theorem feedReady_unlogged : feedReady b s.unlogged = onNext State.unlogged (feedReady b s) := by
  have hkind : s.unlogged.commandKind = s.commandKind := rfl
  rw [feedReady, feedReady, onNext_ite, onNext_ite, endOfLine_unlogged, hkind]
  refine if_congr Iff.rfl rfl (if_congr Iff.rfl rfl ?_)
  cases s.commandKind with
  | discard => rfl
  | none => exact headerChar_unlogged b s
  | masterTransmit => exact payloadChar_unlogged b s
  | masterRequest => exact payloadChar_unlogged b s
  | slaveResponse => exact payloadChar_unlogged b s
  | sendDiscarded => exact payloadChar_unlogged b s

end

theorem feedText_unlogged (bs : List Byte) (s : State) :
    feedText bs s.unlogged = onNext State.unlogged (feedText bs s) := by
  induction bs generalizing s with
  | nil => rfl
  | cons b bs ih =>
    have hbyte := feedReady_unlogged b s
    rw [feedText, feedText, onNext_ite, hbyte]
    refine if_congr Iff.rfl ?_ rfl
    cases feedReady b s with
    | next t => exact ih t
    | fault f => rfl
    | refused r => rfl

/-! ### The host commands and the engine -/

theorem padOutbound_unlogged (n : Nat) (s : State) : padOutbound n s.unlogged = (padOutbound n s).unlogged := by
  induction n generalizing s with
  | zero => rfl
  | succ n ih =>
    rw [padOutbound, padOutbound, bufWrite_unlogged, apply_ite State.unlogged]
    refine if_congr Iff.rfl ?_ rfl
    rcases bufWrite .outbound Config.filler s with ⟨ok, t⟩
    cases ok
    · rfl
    · exact ih t

theorem finishRequest_unlogged (s : State) : finishRequest s.unlogged = (finishRequest s).unlogged := by
  have hpad : padOutbound s.unlogged.svcLen.toNat s.unlogged = (padOutbound s.svcLen.toNat s).unlogged :=
    padOutbound_unlogged s.svcLen.toNat s
  unfold finishRequest
  dsimp only
  rw [hpad, ← bufClear_unlogged, ← bufClear_unlogged]
  rfl

theorem completeRequest_unlogged (s : State) : completeRequest s.unlogged = (completeRequest s).unlogged := by
  have habort (u : State) : abortResponseLine u.unlogged = (abortResponseLine u).unlogged := by
    simp only [abortResponseLine, diagnose_unlogged, apply_ite State.unlogged]
    rfl
  rw [completeRequest, completeRequest, apply_ite State.unlogged, bufClear_unlogged, habort]
  rfl

section
variable (a b : Byte) (s : State)

theorem cmdEnd_unlogged : exec (.cmdEnd a b) s.unlogged = onNext State.unlogged (exec (.cmdEnd a b) s) := by
  simp only [endAndReset.1]
  rfl

theorem cmdWrite_unlogged : exec (.cmdWrite a b) s.unlogged = onNext State.unlogged (exec (.cmdWrite a b) s) := by
  have hwrite := bufWrite_unlogged .outbound a s
  simp only [exec, execCmdWrite, hwrite, onNext, apply_ite State.unlogged]
  rcases bufWrite .outbound a s with ⟨ok, t⟩
  cases ok
  · rfl
  · rfl

theorem cmdEndtx_unlogged : exec (.cmdEndtx a b) s.unlogged = onNext State.unlogged (exec (.cmdEndtx a b) s) := by
  have hclose (u : State) : closeTransmission u.unlogged = (closeTransmission u).unlogged := by
    rw [closeTransmission, bufClear_unlogged]
    rfl
  by_cases hlocked : s.outboundState = .locked
  · rw [exec_endtx (s := s.unlogged) hlocked, exec_endtx hlocked, onNext]
    have hsent := hclose (if targetStatus s = .ok then emitFrame .i2ct s.txAddr s.outbound.bytes s else s)
    rw [apply_ite State.unlogged] at hsent
    exact congrArg (fun u : State => Host.Outcome.next (u.respond (targetStatus s) 0)) hsent
  · obtain ⟨hfree, -⟩ := transmissionEnded a b s
    obtain ⟨hfree', -⟩ := transmissionEnded a b s.unlogged
    rw [hfree hlocked, hfree' hlocked]
    rfl

theorem cmdReqfrom_unlogged : exec (.cmdReqfrom a b) s.unlogged = onNext State.unlogged (exec (.cmdReqfrom a b) s) := by
  have hchecks : requestRefusal a b s.unlogged = requestRefusal a b s := rfl
  have hstart : { s.unlogged with outboundState := .fillingWait } =
    State.unlogged { s with outboundState := .fillingWait } := rfl
  simp only [exec, execCmdReqfrom, hchecks, hstart, resetInbound_unlogged, bufWrite_unlogged]
  cases requestRefusal a b s with
  | some st => rfl
  | none =>
    rcases bufWrite .inbound a (resetInbound { s with outboundState := .fillingWait }) with ⟨ok, t⟩
    cases ok
    · rfl
    · rfl

theorem cmdRead_unlogged : exec (.cmdRead a b) s.unlogged = onNext State.unlogged (exec (.cmdRead a b) s) := by
  have hpeek : bufPeek .inbound s.unlogged = bufPeek .inbound s := rfl
  simp only [exec, execCmdRead, hpeek]
  cases bufPeek .inbound s <;> rfl

theorem cmdPeek_unlogged : exec (.cmdPeek a b) s.unlogged = onNext State.unlogged (exec (.cmdPeek a b) s) := by
  have hpeek : bufPeek .inbound s.unlogged = bufPeek .inbound s := rfl
  simp only [exec, execCmdPeek, hpeek]
  cases bufPeek .inbound s <;> rfl

theorem cmdCbdone_unlogged : exec (.cmdCbdone a b) s.unlogged = onNext State.unlogged (exec (.cmdCbdone a b) s) := by
  have hsvc : s.unlogged.svc = s.svc := rfl
  simp only [exec, execCmdCbdone, hsvc, bufClear_unlogged, finishRequest_unlogged]
  cases s.svc <;> rfl

end

/-- Every operation but RDREG does the same with the log on and off (R344). -/
theorem exec_unlogged {i : Instr} (hi : ∀ a b, i ≠ .cmdRdreg a b) (s : State) :
    exec i s.unlogged = onNext State.unlogged (exec i s) := by
  by_cases hreceive : i.isReceive = true
  · obtain ⟨text, hfeed⟩ := exec_of_isReceive hreceive
    rw [hfeed, hfeed, feedText_unlogged]
  cases i with
  | cmdNop a b => rfl
  | cmdReserved op a b => rfl
  | cmdAvail a b => rfl
  | cmdSetto a b => rfl
  | cmdBegin a b =>
    simp only [exec, execCmdBegin, onNext, apply_ite State.unlogged]
    rfl
  | cmdBeginm a b =>
    simp only [exec, execCmdBeginm, onNext, apply_ite State.unlogged]
    rfl
  | cmdBegintx a b =>
    simp only [exec, execCmdBegintx, onNext, apply_ite State.unlogged]
    rfl
  | cmdEnd a b => exact cmdEnd_unlogged a b s
  | cmdWrite a b => exact cmdWrite_unlogged a b s
  | cmdEndtx a b => exact cmdEndtx_unlogged a b s
  | cmdReqfrom a b => exact cmdReqfrom_unlogged a b s
  | cmdRead a b => exact cmdRead_unlogged a b s
  | cmdPeek a b => exact cmdPeek_unlogged a b s
  | cmdCbdone a b => exact cmdCbdone_unlogged a b s
  | cmdRdreg a b => exact absurd rfl (hi a b)
  | tick =>
    simp only [exec, execTick, onNext, apply_ite State.unlogged]
    rfl
  | reqComplete =>
    simp only [exec, execReqComplete, onNext, completeRequest_unlogged, apply_ite State.unlogged]
    rfl
  | _ => exact absurd rfl hreceive

/-- Settles O38: with the log off the two instances are one. -/
theorem diagInert : Obligations.DiagInert := by
  intro i s flag log hi other
  have hone : onNext State.unlogged (exec i other) = onNext State.unlogged (exec i s) :=
    (exec_unlogged hi other).symm.trans (exec_unlogged hi s)
  refine ⟨fun t hrun => ?next, fun f hrun => ?fault⟩
  case next =>
    rw [hrun] at hone
    obtain ⟨u, hother, hsame⟩ := onNext_eq_next hone
    have hflag : u.cfg.diagEnable = flag := by rw [(outputs_exec hother).cfg]
    exact ⟨u.diag, by rw [hother, ← hflag, ← eq_of_unlogged_eq hsame.symm]⟩
  case fault =>
    rw [hrun] at hone
    exact onNext_eq_fault hone

end Sys2Proof.Machine
end

section
/-! SUPPORT. A slave-only instance (R363): the invariant leaves it no wait, and a response line that nobody awaits is thrown
away at its address (R175). -/

namespace Sys2Proof.Machine

section
variable {s : State}

/-! ### No wait without the master role (R27, R300, R363) -/

theorem waitActive_of_slave (h : TransactionSound s) (hslave : s.cfg.roleMaster = false) : s.waitActive = false := by
  obtain ⟨-, hwait, -⟩ := h
  by_contra hwaiting
  obtain ⟨hmaster, -⟩ := hwait (by simpa using hwaiting)
  exact absurd (hslave.symm.trans hmaster) nofun

/-- Outside a wait no response is awaited or complete (R23). -/
theorem idle_or_locked_of_no_wait (h : TransactionSound s) (hwait : s.waitActive = false) :
    s.outboundState = .idle ∨ s.outboundState = .locked := by
  obtain ⟨hawait, -⟩ := h
  have hnone : ¬(awaiting s = true ∨ s.outboundState = .filled) := fun hpending => by
    obtain ⟨hwaiting, -⟩ := hawait hpending
    exact absurd (hwait.symm.trans hwaiting) nofun
  cases hout : s.outboundState with
  | idle => exact .inl rfl
  | locked => exact .inr rfl
  | fillingWait => exact absurd (.inl (by simp [awaiting, hout])) hnone
  | filling => exact absurd (.inl (by simp [awaiting, hout])) hnone
  | filled => exact absurd (.inr hout) hnone

theorem awaiting_of_idle_or_locked (h : s.outboundState = .idle ∨ s.outboundState = .locked) : awaiting s = false := by
  rcases h with hout | hout
  · simp [awaiting, hout]
  · simp [awaiting, hout]

/-! ### A response line that nobody awaits (R175) -/

/-- From `s` to `t` nothing reached `inbound`, the events, the lines sent or the transaction. -/
abbrev NoTrace (s t : State) : Prop :=
  t.inbound = s.inbound ∧ t.events = s.events ∧ t.tx = s.tx ∧ t.outboundState = s.outboundState

/-- A Discard with no frame in flight and no response awaited only skips the line (R163). -/
theorem noTrace_discard (r : Reason) (hin : s.inboundActive = false) (h : awaiting s = false) :
    NoTrace s (discard r s) := by
  simp [NoTrace, discard_eq, hin, h]

theorem takeByte_unawaited_address (addr : Byte) (h : awaiting s = false) :
    takeByte (startFrame .i2ca s) addr = discard .unexpectedResponse (countPayload addr (startFrame .i2ca s)) := by
  have hfirst : (countPayload addr (startFrame .i2ca s)).frameBytes = 1#16 := (satSucc_eq_one_iff 0#16).mpr rfl
  have hnobody : s.outboundState ≠ .fillingWait := by
    intro hwaits
    simp [awaiting, hwaits] at h
  show responseByte addr (countPayload addr (startFrame .i2ca s)) = _
  rw [responseByte, if_pos hfirst, if_neg fun hawaited => hnobody hawaited.1]

/-- A response line that nobody awaits is skipped from its address on (R164, R175, R202). -/
theorem lineEffect_unawaited_response (addr : Byte) (data : List Byte) (sum : Option Half) (hsvc : s.svc = .none)
    (h : awaiting s = false) :
    NoTrace s (lineEffect .i2ca (addr :: data) sum s) ∧
      (lineEffect .i2ca (addr :: data) sum s).commandKind = .none := by
  have haddr := takeByte_unawaited_address addr h
  have hquiet : NoTrace s (takeByte (startFrame .i2ca s) addr) := by
    rw [haddr]
    exact noTrace_discard (s := countPayload addr (startFrame .i2ca s)) .unexpectedResponse rfl h
  have hskips : SkipsLine (takeByte (startFrame .i2ca s) addr) :=
    ⟨(parsed_takeByte addr _).svc.trans hsvc, by rw [haddr, discard_eq]⟩
  rw [lineEffect, List.foldl_cons, foldl_takeByte_of_skips data hskips, takeSum_of_skips sum hskips, endOfLine, endBranch,
    hskips.2]
  exact ⟨hquiet, rfl⟩

end

/-- Settles O43: without the master role there is no wait, hence no response awaited. -/
theorem slaveOnly : Obligations.SlaveOnly := by
  intro s hslave h
  obtain ⟨-, -, -, -, htransaction⟩ := h
  have hwait := waitActive_of_slave htransaction hslave
  have hout := idle_or_locked_of_no_wait htransaction hwait
  refine ⟨hwait, hout, fun a b => exec_reqfrom_refused ?unsupported, fun a b => ?beginm, exec_tick_idle (.inl hwait),
    exec_reqComplete_disabled (.inl hwait), fun i addr data sum hi hready => ?response⟩
  case unsupported =>
    rw [requestRefusal, hslave]
    rfl
  case beginm =>
    obtain ⟨-, -, -, hrefused, -⟩ := sessionOpened a b s
    exact hrefused hslave
  case response =>
    obtain ⟨payload, he⟩ : ∃ payload, encode i = .line (Encode.line .i2ca (addr :: payload) sum) := by
      rcases hi with rfl | rfl
      · exact ⟨data, rfl⟩
      · exact ⟨[], rfl⟩
    obtain ⟨c, hrun⟩ := exec_line he hready
    obtain ⟨-, -, hsvc⟩ := hready
    obtain ⟨⟨hinbound, hevents, htx, hstate⟩, hkind⟩ :=
      lineEffect_unawaited_response addr payload sum hsvc (awaiting_of_idle_or_locked hout)
    exact ⟨_, hrun, congrArg Buffer.bytes hinbound, hevents, htx, hstate, hkind⟩

end Sys2Proof.Machine
end
